-- ==== Sys2Proof/Word.lean ====
section
/-!
DEFINITION. Word.lean: the word types of the machine (spec/00_scope.md R9 `XLEN` = 32, spec/20_memory.md R61).
-/

namespace Sys2Proof

/-- A 32-bit register value, address or instruction word (R9, R21). -/
abbrev Word := BitVec 32

/-- One byte of memory, the smallest addressable unit (R60). -/
abbrev Byte := BitVec 8

/-- A halfword, 16 bits (R61). -/
abbrev Half := BitVec 16

/-- The number of a general register as an instruction field names it, 0 to 15 (R21). -/
abbrev Reg := BitVec 4

end Sys2Proof
end

