-- ==== Sys2Proof/Config.lean ====
section
/-!
DEFINITION. Config.lean: what the spec leaves to the implementation (spec/00_scope.md R9, spec/92_eei_decisions.md).

The `opaque` constants have no body that a proof can see: a statement proved of this model holds whatever they are.
`ARCH` is fixed to 5TE (R6), so `MUL_CV` is "unchanged" and needs no constant (R193).
-/

namespace Sys2Proof

/-- `VECTOR_BASE` (R9, R72): the exception vectors start at address 0. -/
def Config.vectorBase : Word := 0x00000000#32

/-- DESIGN CHOICE (log 7), safe. `PC_STORE_OFFSET` (R402, D4) is 8 or 12, constant for one implementation: this says
which, and nothing says what it is. -/
opaque Config.pcStoreOffset12 : Bool

/-- The value that a store of R15 adds to the address of the instruction (R402). -/
def Config.pcStoreOffset : Word := if Config.pcStoreOffset12 then 12#32 else 8#32

/-- DESIGN CHOICE (log 8). `ABORT_BASE` (R80, D19): whether an aborted instruction with base writeback leaves the
written-back value (true) or the original value (false) in the base register. -/
opaque Config.abortBaseUpdated : Bool

/-! What a coprocessor does (R310, "Coprocessor defined"; log 6). The first argument is the coprocessor's number, `bits`
the instruction word, `st` the coprocessor's state, a number that codes whatever state it has. -/

/-- `accepts_p` (R310): whether the coprocessor accepts the instruction. -/
opaque Config.cpAccepts (p : BitVec 4) (bits : Word) (st : Nat) (privileged : Bool) : Bool

/-- `cdp_p` (R310): the coprocessor's state after a CDP. -/
opaque Config.cpCdp (p : BitVec 4) (bits : Word) (st : Nat) : Nat

/-- `mcr_p` (R310): the coprocessor's state after it received `value`. -/
opaque Config.cpMcr (p : BitVec 4) (bits : Word) (value : Word) (st : Nat) : Nat

/-- `mrc_p` (R310): the value the coprocessor supplies, and its state afterwards. -/
opaque Config.cpMrc (p : BitVec 4) (bits : Word) (st : Nat) : Word × Nat

/-- `ldc_p` (R310) less one: an LDC moves `k` words, 1 to 16. -/
opaque Config.cpLdcCount (p : BitVec 4) (bits : Word) (st : Nat) : Fin 16

/-- `ldc_word_p` (R310): the coprocessor's state after it received word number `j`. -/
opaque Config.cpLdcWord (p : BitVec 4) (bits : Word) (j : Nat) (word : Word) (st : Nat) : Nat

/-- The number of words of `stc_p` (R310) less one: an STC moves `k` words, 1 to 16. -/
opaque Config.cpStcCount (p : BitVec 4) (bits : Word) (st : Nat) : Fin 16

/-- Word number `j` of `stc_p` (R310). -/
opaque Config.cpStcWord (p : BitVec 4) (bits : Word) (j : Nat) (st : Nat) : Word

/-- The coprocessor's state after `stc_p` (R310). -/
opaque Config.cpStcState (p : BitVec 4) (bits : Word) (st : Nat) : Nat

end Sys2Proof
end

