-- ==== Sys2Proof/Syntax.lean ====
section
/-!
DEFINITION. Syntax.lean: the instructions, one constructor for each row of spec/opcode_table.json, in the table's order
(spec/30_encoding.md R121, R129). A field named as in the table holds the bits of that field; a condition, a shift kind,
an index mode and a block mode are the names that the spec gives to the codes (R91, R100, R105, R107).
-/

namespace Sys2Proof

/-- The condition field (R91): the fifteen conditions of the card. -/
inductive Cond where
  | eq | ne | cs | cc | mi | pl | vs | vc | hi | ls | ge | lt | gt | le | al
deriving DecidableEq, Repr

/-- The four shifts of Operand 2 and of addressing mode 2 (R100); `ror` by a field value of 0 is RRX (R97). -/
inductive ShiftKind where
  | lsl | lsr | asr | ror
deriving DecidableEq, Repr

/-- How a load or store forms its address (R105): `[Rn, off]`, `[Rn, off]!`, `[Rn], off`. -/
inductive IndexMode where
  | offset | pre | post
deriving DecidableEq, Repr

/-- The four modes of addressing mode 4 (R280). -/
inductive BlockMode where
  | ia | ib | da | db
deriving DecidableEq, Repr

/-- Operand 2 of a data-processing instruction, by its three encodings (R100): the rotated immediate, a register
shifted by an immediate (`Rm` and RRX among them), a register shifted by a register. -/
inductive Operand2 where
  | imm (rot : BitVec 4) (imm : BitVec 8)
  | shift (amt : BitVec 5) (sh : ShiftKind) (rm : Reg)
  | reg (rs : Reg) (sh : ShiftKind) (rm : Reg)
deriving DecidableEq, Repr

/-- The offset of addressing modes 2 and 3 (R241 to R245): a constant, or a register shifted by an immediate. -/
inductive Offset where
  | imm (value : Word)
  | reg (amt : BitVec 5) (sh : ShiftKind) (rm : Reg)
deriving DecidableEq, Repr

/-- The instructions of spec/opcode_table.json, one constructor a row (R129 (a)). The last two are the patterns of
R113 that raise Undefined Instruction; they are not instructions of the card. -/
inductive Instr where
  /-- `BLX label`, R223, R108, branch-unconditional, 0xFA000000. -/
  | blxLabel (h : Bool) (imm : BitVec 24)
  /-- `LDC2 p<cpnum>, CRd, <a_mode5>`, R319, R109, coprocessor-load-store-offset-or-preindexed, 0xFD100000. -/
  | ldc2Off (u n w : Bool) (rn : Reg) (crd cp : BitVec 4) (off : BitVec 8)
  /-- `LDC2 p<cpnum>, CRd, <a_mode5>`, R319, R109, coprocessor-load-store-postindexed, 0xFC300000. -/
  | ldc2Post (u n : Bool) (rn : Reg) (crd cp : BitVec 4) (off : BitVec 8)
  /-- `LDC2 p<cpnum>, CRd, <a_mode5>`, R319, R109, coprocessor-load-store-unindexed, 0xFC900000. -/
  | ldc2Unidx (n : Bool) (rn : Reg) (crd cp : BitVec 4) (off : BitVec 8)
  /-- `STC2 p<cpnum>, CRd, <a_mode5>`, R321, R109, coprocessor-load-store-offset-or-preindexed, 0xFD000000. -/
  | stc2Off (u n w : Bool) (rn : Reg) (crd cp : BitVec 4) (off : BitVec 8)
  /-- `STC2 p<cpnum>, CRd, <a_mode5>`, R321, R109, coprocessor-load-store-postindexed, 0xFC200000. -/
  | stc2Post (u n : Bool) (rn : Reg) (crd cp : BitVec 4) (off : BitVec 8)
  /-- `STC2 p<cpnum>, CRd, <a_mode5>`, R321, R109, coprocessor-load-store-unindexed, 0xFC800000. -/
  | stc2Unidx (n : Bool) (rn : Reg) (crd cp : BitVec 4) (off : BitVec 8)
  /-- `CDP2 p<cpnum>, <op1>, CRd, CRn, CRm, <op2>`, R313, R109, coprocessor-data-op, 0xFE000000. -/
  | cdp2 (op1 crn crd cp : BitVec 4) (op2 : BitVec 3) (crm : BitVec 4)
  /-- `MRC2 p<cpnum>, <op1>, Rd, CRn, CRm, <op2>`, R315, R109, coprocessor-register-move, 0xFE100010. -/
  | mrc2 (op1 : BitVec 3) (crn : BitVec 4) (rd : Reg) (cp : BitVec 4) (op2 : BitVec 3) (crm : BitVec 4)
  /-- `MCR2 p<cpnum>, <op1>, Rd, CRn, CRm, <op2>`, R317, R109, coprocessor-register-move, 0xFE000010. -/
  | mcr2 (op1 : BitVec 3) (crn : BitVec 4) (rd : Reg) (cp : BitVec 4) (op2 : BitVec 3) (crm : BitVec 4)
  /-- `MUL{cond}{S} Rd, Rm, Rs`, R181, R101, multiply, 0x00000090. -/
  | mul (c : Cond) (sf : Bool) (rd rs rm : Reg)
  /-- `MLA{cond}{S} Rd, Rm, Rs, Rn`, R182, R101, multiply, 0x00200090. -/
  | mla (c : Cond) (sf : Bool) (rd rn rs rm : Reg)
  /-- `UMULL{cond}{S} RdLo, RdHi, Rm, Rs`, R183, R101, multiply-long, 0x00800090. -/
  | umull (c : Cond) (sf : Bool) (rdHi rdLo rs rm : Reg)
  /-- `UMLAL{cond}{S} RdLo, RdHi, Rm, Rs`, R184, R101, multiply-long, 0x00A00090. -/
  | umlal (c : Cond) (sf : Bool) (rdHi rdLo rs rm : Reg)
  /-- `SMULL{cond}{S} RdLo, RdHi, Rm, Rs`, R185, R101, multiply-long, 0x00C00090. -/
  | smull (c : Cond) (sf : Bool) (rdHi rdLo rs rm : Reg)
  /-- `SMLAL{cond}{S} RdLo, RdHi, Rm, Rs`, R186, R101, multiply-long, 0x00E00090. -/
  | smlal (c : Cond) (sf : Bool) (rdHi rdLo rs rm : Reg)
  /-- `SWP{cond} Rd, Rm, [Rn]`, R301, R104, swap, 0x01000090. -/
  | swp (c : Cond) (rn rd rm : Reg)
  /-- `SWP{cond}B Rd, Rm, [Rn]`, R302, R104, swap, 0x01400090. -/
  | swpb (c : Cond) (rn rd rm : Reg)
  /-- `LDR{cond}H Rd, <a_mode3>`, R256, R106, halfword-immediate-offset-or-preindexed, 0x015000B0. -/
  | ldrhImm (c : Cond) (u w : Bool) (rn rd : Reg) (imm : BitVec 8)
  /-- `LDR{cond}H Rd, <a_mode3>`, R256, R106, halfword-immediate-postindexed, 0x005000B0. -/
  | ldrhImmPost (c : Cond) (u : Bool) (rn rd : Reg) (imm : BitVec 8)
  /-- `LDR{cond}H Rd, <a_mode3>`, R256, R106, halfword-register-offset-or-preindexed, 0x011000B0. -/
  | ldrhReg (c : Cond) (u w : Bool) (rn rd rm : Reg)
  /-- `LDR{cond}H Rd, <a_mode3>`, R256, R106, halfword-register-postindexed, 0x001000B0. -/
  | ldrhRegPost (c : Cond) (u : Bool) (rn rd rm : Reg)
  /-- `LDR{cond}SB Rd, <a_mode3>`, R255, R106, halfword-immediate-offset-or-preindexed, 0x015000D0. -/
  | ldrsbImm (c : Cond) (u w : Bool) (rn rd : Reg) (imm : BitVec 8)
  /-- `LDR{cond}SB Rd, <a_mode3>`, R255, R106, halfword-immediate-postindexed, 0x005000D0. -/
  | ldrsbImmPost (c : Cond) (u : Bool) (rn rd : Reg) (imm : BitVec 8)
  /-- `LDR{cond}SB Rd, <a_mode3>`, R255, R106, halfword-register-offset-or-preindexed, 0x011000D0. -/
  | ldrsbReg (c : Cond) (u w : Bool) (rn rd rm : Reg)
  /-- `LDR{cond}SB Rd, <a_mode3>`, R255, R106, halfword-register-postindexed, 0x001000D0. -/
  | ldrsbRegPost (c : Cond) (u : Bool) (rn rd rm : Reg)
  /-- `LDR{cond}SH Rd, <a_mode3>`, R257, R106, halfword-immediate-offset-or-preindexed, 0x015000F0. -/
  | ldrshImm (c : Cond) (u w : Bool) (rn rd : Reg) (imm : BitVec 8)
  /-- `LDR{cond}SH Rd, <a_mode3>`, R257, R106, halfword-immediate-postindexed, 0x005000F0. -/
  | ldrshImmPost (c : Cond) (u : Bool) (rn rd : Reg) (imm : BitVec 8)
  /-- `LDR{cond}SH Rd, <a_mode3>`, R257, R106, halfword-register-offset-or-preindexed, 0x011000F0. -/
  | ldrshReg (c : Cond) (u w : Bool) (rn rd rm : Reg)
  /-- `LDR{cond}SH Rd, <a_mode3>`, R257, R106, halfword-register-postindexed, 0x001000F0. -/
  | ldrshRegPost (c : Cond) (u : Bool) (rn rd rm : Reg)
  /-- `STR{cond}H Rd, <a_mode3>`, R262, R106, halfword-immediate-offset-or-preindexed, 0x014000B0. -/
  | strhImm (c : Cond) (u w : Bool) (rn rd : Reg) (imm : BitVec 8)
  /-- `STR{cond}H Rd, <a_mode3>`, R262, R106, halfword-immediate-postindexed, 0x004000B0. -/
  | strhImmPost (c : Cond) (u : Bool) (rn rd : Reg) (imm : BitVec 8)
  /-- `STR{cond}H Rd, <a_mode3>`, R262, R106, halfword-register-offset-or-preindexed, 0x010000B0. -/
  | strhReg (c : Cond) (u w : Bool) (rn rd rm : Reg)
  /-- `STR{cond}H Rd, <a_mode3>`, R262, R106, halfword-register-postindexed, 0x000000B0. -/
  | strhRegPost (c : Cond) (u : Bool) (rn rd rm : Reg)
  /-- `MRS{cond} Rd, CPSR`, R142, R103, status-to-register, 0x010F0000. -/
  | mrsCpsr (c : Cond) (rd : Reg)
  /-- `MRS{cond} Rd, SPSR`, R143, R103, status-to-register, 0x014F0000. -/
  | mrsSpsr (c : Cond) (rd : Reg)
  /-- `MSR{cond} CPSR_<fields>, Rm`, R147, R103, register-to-status, 0x0120F000. -/
  | msrCpsrReg (c : Cond) (fields : BitVec 4) (rm : Reg)
  /-- `MSR{cond} SPSR_<fields>, Rm`, R148, R103, register-to-status, 0x0160F000. -/
  | msrSpsrReg (c : Cond) (fields : BitVec 4) (rm : Reg)
  /-- `MSR{cond} CPSR_<fields>, #<immed_8r>`, R149, R103, immediate-to-status, 0x0320F000. -/
  | msrCpsrImm (c : Cond) (fields rot : BitVec 4) (imm : BitVec 8)
  /-- `MSR{cond} SPSR_<fields>, #<immed_8r>`, R150, R103, immediate-to-status, 0x0360F000. -/
  | msrSpsrImm (c : Cond) (fields rot : BitVec 4) (imm : BitVec 8)
  /-- `BX{cond} Rm`, R222, R103, branch-exchange, 0x012FFF10. -/
  | bx (c : Cond) (rm : Reg)
  /-- `BLX{cond} Rm`, R224, R103, branch-link-exchange-register, 0x012FFF30. -/
  | blxReg (c : Cond) (rm : Reg)
  /-- `CLZ{cond} Rd, Rm`, R192, R103, count-leading-zeros, 0x016F0F10. -/
  | clz (c : Cond) (rd rm : Reg)
  /-- `BKPT <immed_16>`, R331, R103, breakpoint, 0xE1200070. -/
  | bkpt (imm : BitVec 16)
  /-- `QADD{cond} Rd, Rm, Rn`, R168, R102, saturating-arithmetic, 0x01000050. -/
  | qadd (c : Cond) (rn rd rm : Reg)
  /-- `QSUB{cond} Rd, Rm, Rn`, R170, R102, saturating-arithmetic, 0x01200050. -/
  | qsub (c : Cond) (rn rd rm : Reg)
  /-- `QDADD{cond} Rd, Rm, Rn`, R169, R102, saturating-arithmetic, 0x01400050. -/
  | qdadd (c : Cond) (rn rd rm : Reg)
  /-- `QDSUB{cond} Rd, Rm, Rn`, R171, R102, saturating-arithmetic, 0x01600050. -/
  | qdsub (c : Cond) (rn rd rm : Reg)
  /-- `SMLAxy{cond} Rd, Rm, Rs, Rn`, R189, R102, multiply-16, 0x01000080. -/
  | smlaxy (c : Cond) (x y : Bool) (rd rn rs rm : Reg)
  /-- `SMLAWy{cond} Rd, Rm, Rs, Rn`, R190, R102, multiply-16, 0x01200080. -/
  | smlawy (c : Cond) (y : Bool) (rd rn rs rm : Reg)
  /-- `SMULWy{cond} Rd, Rm, Rs`, R188, R102, multiply-16, 0x012000A0. -/
  | smulwy (c : Cond) (y : Bool) (rd rs rm : Reg)
  /-- `SMLALxy{cond} RdLo, RdHi, Rm, Rs`, R191, R102, multiply-16, 0x01400080. -/
  | smlalxy (c : Cond) (x y : Bool) (rdHi rdLo rs rm : Reg)
  /-- `SMULxy{cond} Rd, Rm, Rs`, R187, R102, multiply-16, 0x01600080. -/
  | smulxy (c : Cond) (x y : Bool) (rd rs rm : Reg)
  /-- `NOP`, R206, R100, data-processing-register-immediate-shift, 0xE1A00000. -/
  | nop
  /-- `AND{cond}{S} Rd, Rn, <Oprnd2>`, R202, R100, data-processing-immediate, 0x02000000. -/
  | andImm (c : Cond) (sf : Bool) (rn rd : Reg) (rot : BitVec 4) (imm : BitVec 8)
  /-- `AND{cond}{S} Rd, Rn, <Oprnd2>`, R202, R100, data-processing-register-immediate-shift, 0x00000000. -/
  | andShift (c : Cond) (sf : Bool) (rn rd : Reg) (amt : BitVec 5) (sh : ShiftKind) (rm : Reg)
  /-- `AND{cond}{S} Rd, Rn, <Oprnd2>`, R202, R100, data-processing-register-register-shift, 0x00000010. -/
  | andReg (c : Cond) (sf : Bool) (rn rd rs : Reg) (sh : ShiftKind) (rm : Reg)
  /-- `EOR{cond}{S} Rd, Rn, <Oprnd2>`, R203, R100, data-processing-immediate, 0x02200000. -/
  | eorImm (c : Cond) (sf : Bool) (rn rd : Reg) (rot : BitVec 4) (imm : BitVec 8)
  /-- `EOR{cond}{S} Rd, Rn, <Oprnd2>`, R203, R100, data-processing-register-immediate-shift, 0x00200000. -/
  | eorShift (c : Cond) (sf : Bool) (rn rd : Reg) (amt : BitVec 5) (sh : ShiftKind) (rm : Reg)
  /-- `EOR{cond}{S} Rd, Rn, <Oprnd2>`, R203, R100, data-processing-register-register-shift, 0x00200010. -/
  | eorReg (c : Cond) (sf : Bool) (rn rd rs : Reg) (sh : ShiftKind) (rm : Reg)
  /-- `SUB{cond}{S} Rd, Rn, <Oprnd2>`, R164, R100, data-processing-immediate, 0x02400000. -/
  | subImm (c : Cond) (sf : Bool) (rn rd : Reg) (rot : BitVec 4) (imm : BitVec 8)
  /-- `SUB{cond}{S} Rd, Rn, <Oprnd2>`, R164, R100, data-processing-register-immediate-shift, 0x00400000. -/
  | subShift (c : Cond) (sf : Bool) (rn rd : Reg) (amt : BitVec 5) (sh : ShiftKind) (rm : Reg)
  /-- `SUB{cond}{S} Rd, Rn, <Oprnd2>`, R164, R100, data-processing-register-register-shift, 0x00400010. -/
  | subReg (c : Cond) (sf : Bool) (rn rd rs : Reg) (sh : ShiftKind) (rm : Reg)
  /-- `RSB{cond}{S} Rd, Rn, <Oprnd2>`, R166, R100, data-processing-immediate, 0x02600000. -/
  | rsbImm (c : Cond) (sf : Bool) (rn rd : Reg) (rot : BitVec 4) (imm : BitVec 8)
  /-- `RSB{cond}{S} Rd, Rn, <Oprnd2>`, R166, R100, data-processing-register-immediate-shift, 0x00600000. -/
  | rsbShift (c : Cond) (sf : Bool) (rn rd : Reg) (amt : BitVec 5) (sh : ShiftKind) (rm : Reg)
  /-- `RSB{cond}{S} Rd, Rn, <Oprnd2>`, R166, R100, data-processing-register-register-shift, 0x00600010. -/
  | rsbReg (c : Cond) (sf : Bool) (rn rd rs : Reg) (sh : ShiftKind) (rm : Reg)
  /-- `ADD{cond}{S} Rd, Rn, <Oprnd2>`, R162, R100, data-processing-immediate, 0x02800000. -/
  | addImm (c : Cond) (sf : Bool) (rn rd : Reg) (rot : BitVec 4) (imm : BitVec 8)
  /-- `ADD{cond}{S} Rd, Rn, <Oprnd2>`, R162, R100, data-processing-register-immediate-shift, 0x00800000. -/
  | addShift (c : Cond) (sf : Bool) (rn rd : Reg) (amt : BitVec 5) (sh : ShiftKind) (rm : Reg)
  /-- `ADD{cond}{S} Rd, Rn, <Oprnd2>`, R162, R100, data-processing-register-register-shift, 0x00800010. -/
  | addReg (c : Cond) (sf : Bool) (rn rd rs : Reg) (sh : ShiftKind) (rm : Reg)
  /-- `ADC{cond}{S} Rd, Rn, <Oprnd2>`, R163, R100, data-processing-immediate, 0x02A00000. -/
  | adcImm (c : Cond) (sf : Bool) (rn rd : Reg) (rot : BitVec 4) (imm : BitVec 8)
  /-- `ADC{cond}{S} Rd, Rn, <Oprnd2>`, R163, R100, data-processing-register-immediate-shift, 0x00A00000. -/
  | adcShift (c : Cond) (sf : Bool) (rn rd : Reg) (amt : BitVec 5) (sh : ShiftKind) (rm : Reg)
  /-- `ADC{cond}{S} Rd, Rn, <Oprnd2>`, R163, R100, data-processing-register-register-shift, 0x00A00010. -/
  | adcReg (c : Cond) (sf : Bool) (rn rd rs : Reg) (sh : ShiftKind) (rm : Reg)
  /-- `SBC{cond}{S} Rd, Rn, <Oprnd2>`, R165, R100, data-processing-immediate, 0x02C00000. -/
  | sbcImm (c : Cond) (sf : Bool) (rn rd : Reg) (rot : BitVec 4) (imm : BitVec 8)
  /-- `SBC{cond}{S} Rd, Rn, <Oprnd2>`, R165, R100, data-processing-register-immediate-shift, 0x00C00000. -/
  | sbcShift (c : Cond) (sf : Bool) (rn rd : Reg) (amt : BitVec 5) (sh : ShiftKind) (rm : Reg)
  /-- `SBC{cond}{S} Rd, Rn, <Oprnd2>`, R165, R100, data-processing-register-register-shift, 0x00C00010. -/
  | sbcReg (c : Cond) (sf : Bool) (rn rd rs : Reg) (sh : ShiftKind) (rm : Reg)
  /-- `RSC{cond}{S} Rd, Rn, <Oprnd2>`, R167, R100, data-processing-immediate, 0x02E00000. -/
  | rscImm (c : Cond) (sf : Bool) (rn rd : Reg) (rot : BitVec 4) (imm : BitVec 8)
  /-- `RSC{cond}{S} Rd, Rn, <Oprnd2>`, R167, R100, data-processing-register-immediate-shift, 0x00E00000. -/
  | rscShift (c : Cond) (sf : Bool) (rn rd : Reg) (amt : BitVec 5) (sh : ShiftKind) (rm : Reg)
  /-- `RSC{cond}{S} Rd, Rn, <Oprnd2>`, R167, R100, data-processing-register-register-shift, 0x00E00010. -/
  | rscReg (c : Cond) (sf : Bool) (rn rd rs : Reg) (sh : ShiftKind) (rm : Reg)
  /-- `TST{cond} Rn, <Oprnd2>`, R200, R100, data-processing-immediate, 0x03100000. -/
  | tstImm (c : Cond) (rn : Reg) (rot : BitVec 4) (imm : BitVec 8)
  /-- `TST{cond} Rn, <Oprnd2>`, R200, R100, data-processing-register-immediate-shift, 0x01100000. -/
  | tstShift (c : Cond) (rn : Reg) (amt : BitVec 5) (sh : ShiftKind) (rm : Reg)
  /-- `TST{cond} Rn, <Oprnd2>`, R200, R100, data-processing-register-register-shift, 0x01100010. -/
  | tstReg (c : Cond) (rn rs : Reg) (sh : ShiftKind) (rm : Reg)
  /-- `TEQ{cond} Rn, <Oprnd2>`, R201, R100, data-processing-immediate, 0x03300000. -/
  | teqImm (c : Cond) (rn : Reg) (rot : BitVec 4) (imm : BitVec 8)
  /-- `TEQ{cond} Rn, <Oprnd2>`, R201, R100, data-processing-register-immediate-shift, 0x01300000. -/
  | teqShift (c : Cond) (rn : Reg) (amt : BitVec 5) (sh : ShiftKind) (rm : Reg)
  /-- `TEQ{cond} Rn, <Oprnd2>`, R201, R100, data-processing-register-register-shift, 0x01300010. -/
  | teqReg (c : Cond) (rn rs : Reg) (sh : ShiftKind) (rm : Reg)
  /-- `CMP{cond} Rn, <Oprnd2>`, R208, R100, data-processing-immediate, 0x03500000. -/
  | cmpImm (c : Cond) (rn : Reg) (rot : BitVec 4) (imm : BitVec 8)
  /-- `CMP{cond} Rn, <Oprnd2>`, R208, R100, data-processing-register-immediate-shift, 0x01500000. -/
  | cmpShift (c : Cond) (rn : Reg) (amt : BitVec 5) (sh : ShiftKind) (rm : Reg)
  /-- `CMP{cond} Rn, <Oprnd2>`, R208, R100, data-processing-register-register-shift, 0x01500010. -/
  | cmpReg (c : Cond) (rn rs : Reg) (sh : ShiftKind) (rm : Reg)
  /-- `CMN{cond} Rn, <Oprnd2>`, R209, R100, data-processing-immediate, 0x03700000. -/
  | cmnImm (c : Cond) (rn : Reg) (rot : BitVec 4) (imm : BitVec 8)
  /-- `CMN{cond} Rn, <Oprnd2>`, R209, R100, data-processing-register-immediate-shift, 0x01700000. -/
  | cmnShift (c : Cond) (rn : Reg) (amt : BitVec 5) (sh : ShiftKind) (rm : Reg)
  /-- `CMN{cond} Rn, <Oprnd2>`, R209, R100, data-processing-register-register-shift, 0x01700010. -/
  | cmnReg (c : Cond) (rn rs : Reg) (sh : ShiftKind) (rm : Reg)
  /-- `ORR{cond}{S} Rd, Rn, <Oprnd2>`, R204, R100, data-processing-immediate, 0x03800000. -/
  | orrImm (c : Cond) (sf : Bool) (rn rd : Reg) (rot : BitVec 4) (imm : BitVec 8)
  /-- `ORR{cond}{S} Rd, Rn, <Oprnd2>`, R204, R100, data-processing-register-immediate-shift, 0x01800000. -/
  | orrShift (c : Cond) (sf : Bool) (rn rd : Reg) (amt : BitVec 5) (sh : ShiftKind) (rm : Reg)
  /-- `ORR{cond}{S} Rd, Rn, <Oprnd2>`, R204, R100, data-processing-register-register-shift, 0x01800010. -/
  | orrReg (c : Cond) (sf : Bool) (rn rd rs : Reg) (sh : ShiftKind) (rm : Reg)
  /-- `MOV{cond}{S} Rd, <Oprnd2>`, R140, R100, data-processing-immediate, 0x03A00000. -/
  | movImm (c : Cond) (sf : Bool) (rd : Reg) (rot : BitVec 4) (imm : BitVec 8)
  /-- `MOV{cond}{S} Rd, <Oprnd2>`, R140, R100, data-processing-register-immediate-shift, 0x01A00000. -/
  | movShift (c : Cond) (sf : Bool) (rd : Reg) (amt : BitVec 5) (sh : ShiftKind) (rm : Reg)
  /-- `MOV{cond}{S} Rd, <Oprnd2>`, R140, R100, data-processing-register-register-shift, 0x01A00010. -/
  | movReg (c : Cond) (sf : Bool) (rd rs : Reg) (sh : ShiftKind) (rm : Reg)
  /-- `BIC{cond}{S} Rd, Rn, <Oprnd2>`, R205, R100, data-processing-immediate, 0x03C00000. -/
  | bicImm (c : Cond) (sf : Bool) (rn rd : Reg) (rot : BitVec 4) (imm : BitVec 8)
  /-- `BIC{cond}{S} Rd, Rn, <Oprnd2>`, R205, R100, data-processing-register-immediate-shift, 0x01C00000. -/
  | bicShift (c : Cond) (sf : Bool) (rn rd : Reg) (amt : BitVec 5) (sh : ShiftKind) (rm : Reg)
  /-- `BIC{cond}{S} Rd, Rn, <Oprnd2>`, R205, R100, data-processing-register-register-shift, 0x01C00010. -/
  | bicReg (c : Cond) (sf : Bool) (rn rd rs : Reg) (sh : ShiftKind) (rm : Reg)
  /-- `MVN{cond}{S} Rd, <Oprnd2>`, R141, R100, data-processing-immediate, 0x03E00000. -/
  | mvnImm (c : Cond) (sf : Bool) (rd : Reg) (rot : BitVec 4) (imm : BitVec 8)
  /-- `MVN{cond}{S} Rd, <Oprnd2>`, R141, R100, data-processing-register-immediate-shift, 0x01E00000. -/
  | mvnShift (c : Cond) (sf : Bool) (rd : Reg) (amt : BitVec 5) (sh : ShiftKind) (rm : Reg)
  /-- `MVN{cond}{S} Rd, <Oprnd2>`, R141, R100, data-processing-register-register-shift, 0x01E00010. -/
  | mvnReg (c : Cond) (sf : Bool) (rd rs : Reg) (sh : ShiftKind) (rm : Reg)
  /-- `LDR{cond}T Rd, <a_mode2P>`, R251, R105, load-store-immediate-offset, 0x04300000. -/
  | ldrtImm (c : Cond) (u : Bool) (rn rd : Reg) (imm : BitVec 12)
  /-- `LDR{cond}T Rd, <a_mode2P>`, R251, R105, load-store-register-offset, 0x06300000. -/
  | ldrtReg (c : Cond) (u : Bool) (rn rd : Reg) (amt : BitVec 5) (sh : ShiftKind) (rm : Reg)
  /-- `LDR{cond}BT Rd, <a_mode2P>`, R254, R105, load-store-immediate-offset, 0x04700000. -/
  | ldrbtImm (c : Cond) (u : Bool) (rn rd : Reg) (imm : BitVec 12)
  /-- `LDR{cond}BT Rd, <a_mode2P>`, R254, R105, load-store-register-offset, 0x06700000. -/
  | ldrbtReg (c : Cond) (u : Bool) (rn rd : Reg) (amt : BitVec 5) (sh : ShiftKind) (rm : Reg)
  /-- `STR{cond}T Rd, <a_mode2P>`, R259, R105, load-store-immediate-offset, 0x04200000. -/
  | strtImm (c : Cond) (u : Bool) (rn rd : Reg) (imm : BitVec 12)
  /-- `STR{cond}T Rd, <a_mode2P>`, R259, R105, load-store-register-offset, 0x06200000. -/
  | strtReg (c : Cond) (u : Bool) (rn rd : Reg) (amt : BitVec 5) (sh : ShiftKind) (rm : Reg)
  /-- `STR{cond}BT Rd, <a_mode2P>`, R261, R105, load-store-immediate-offset, 0x04600000. -/
  | strbtImm (c : Cond) (u : Bool) (rn rd : Reg) (imm : BitVec 12)
  /-- `STR{cond}BT Rd, <a_mode2P>`, R261, R105, load-store-register-offset, 0x06600000. -/
  | strbtReg (c : Cond) (u : Bool) (rn rd : Reg) (amt : BitVec 5) (sh : ShiftKind) (rm : Reg)
  /-- `LDR{cond} R15, <a_mode2>`, R252, R105, load-store-immediate-offset, 0x0410F000. -/
  | ldrPcImm (c : Cond) (ix : IndexMode) (u : Bool) (rn : Reg) (imm : BitVec 12)
  /-- `LDR{cond} R15, <a_mode2>`, R252, R105, load-store-register-offset, 0x0610F000. -/
  | ldrPcReg (c : Cond) (ix : IndexMode) (u : Bool) (rn : Reg) (amt : BitVec 5) (sh : ShiftKind) (rm : Reg)
  /-- `LDR{cond} Rd, <a_mode2>`, R250, R105, load-store-immediate-offset, 0x04100000. -/
  | ldrImm (c : Cond) (ix : IndexMode) (u : Bool) (rn rd : Reg) (imm : BitVec 12)
  /-- `LDR{cond} Rd, <a_mode2>`, R250, R105, load-store-register-offset, 0x06100000. -/
  | ldrReg (c : Cond) (ix : IndexMode) (u : Bool) (rn rd : Reg) (amt : BitVec 5) (sh : ShiftKind) (rm : Reg)
  /-- `LDR{cond}B Rd, <a_mode2>`, R253, R105, load-store-immediate-offset, 0x04500000. -/
  | ldrbImm (c : Cond) (ix : IndexMode) (u : Bool) (rn rd : Reg) (imm : BitVec 12)
  /-- `LDR{cond}B Rd, <a_mode2>`, R253, R105, load-store-register-offset, 0x06500000. -/
  | ldrbReg (c : Cond) (ix : IndexMode) (u : Bool) (rn rd : Reg) (amt : BitVec 5) (sh : ShiftKind) (rm : Reg)
  /-- `STR{cond} Rd, <a_mode2>`, R258, R105, load-store-immediate-offset, 0x04000000. -/
  | strImm (c : Cond) (ix : IndexMode) (u : Bool) (rn rd : Reg) (imm : BitVec 12)
  /-- `STR{cond} Rd, <a_mode2>`, R258, R105, load-store-register-offset, 0x06000000. -/
  | strReg (c : Cond) (ix : IndexMode) (u : Bool) (rn rd : Reg) (amt : BitVec 5) (sh : ShiftKind) (rm : Reg)
  /-- `STR{cond}B Rd, <a_mode2>`, R260, R105, load-store-immediate-offset, 0x04400000. -/
  | strbImm (c : Cond) (ix : IndexMode) (u : Bool) (rn rd : Reg) (imm : BitVec 12)
  /-- `STR{cond}B Rd, <a_mode2>`, R260, R105, load-store-register-offset, 0x06400000. -/
  | strbReg (c : Cond) (ix : IndexMode) (u : Bool) (rn rd : Reg) (amt : BitVec 5) (sh : ShiftKind) (rm : Reg)
  /-- `LDM{cond}<a_mode4L> Rd{!}, <reglist-pc>`, R282, R107, load-store-multiple, 0x08100000. -/
  | ldm (c : Cond) (am : BlockMode) (w : Bool) (rn : Reg) (list : BitVec 15)
  /-- `LDM{cond}<a_mode4L> Rd{!}, <reglist+pc>`, R283, R107, load-store-multiple, 0x08108000. -/
  | ldmPc (c : Cond) (am : BlockMode) (w : Bool) (rn : Reg) (list : BitVec 15)
  /-- `LDM{cond}<a_mode4L> Rd{!}, <reglist+pc>^`, R285, R107, load-store-multiple, 0x08508000. -/
  | ldmPcRet (c : Cond) (am : BlockMode) (w : Bool) (rn : Reg) (list : BitVec 15)
  /-- `LDM{cond}<a_mode4L> Rd, <reglist-pc>^`, R284, R107, load-store-multiple, 0x08500000. -/
  | ldmUser (c : Cond) (am : BlockMode) (rn : Reg) (list : BitVec 15)
  /-- `STM{cond}<a_mode4S> Rd{!}, <reglist>`, R286, R107, load-store-multiple, 0x08000000. -/
  | stm (c : Cond) (am : BlockMode) (w : Bool) (rn : Reg) (list : BitVec 16)
  /-- `STM{cond}<a_mode4S> Rd, <reglist>^`, R287, R107, load-store-multiple, 0x08400000. -/
  | stmUser (c : Cond) (am : BlockMode) (rn : Reg) (list : BitVec 16)
  /-- `B{cond} label`, R220, R108, branch, 0x0A000000. -/
  | b (c : Cond) (imm : BitVec 24)
  /-- `BL{cond} label`, R221, R108, branch, 0x0B000000. -/
  | bl (c : Cond) (imm : BitVec 24)
  /-- `LDC{cond} p<cpnum>, CRd, <a_mode5>`, R318, R109, coprocessor-load-store-offset-or-preindexed, 0x0D100000. -/
  | ldcOff (c : Cond) (u n w : Bool) (rn : Reg) (crd cp : BitVec 4) (off : BitVec 8)
  /-- `LDC{cond} p<cpnum>, CRd, <a_mode5>`, R318, R109, coprocessor-load-store-postindexed, 0x0C300000. -/
  | ldcPost (c : Cond) (u n : Bool) (rn : Reg) (crd cp : BitVec 4) (off : BitVec 8)
  /-- `LDC{cond} p<cpnum>, CRd, <a_mode5>`, R318, R109, coprocessor-load-store-unindexed, 0x0C900000. -/
  | ldcUnidx (c : Cond) (n : Bool) (rn : Reg) (crd cp : BitVec 4) (off : BitVec 8)
  /-- `STC{cond} p<cpnum>, CRd, <a_mode5>`, R320, R109, coprocessor-load-store-offset-or-preindexed, 0x0D000000. -/
  | stcOff (c : Cond) (u n w : Bool) (rn : Reg) (crd cp : BitVec 4) (off : BitVec 8)
  /-- `STC{cond} p<cpnum>, CRd, <a_mode5>`, R320, R109, coprocessor-load-store-postindexed, 0x0C200000. -/
  | stcPost (c : Cond) (u n : Bool) (rn : Reg) (crd cp : BitVec 4) (off : BitVec 8)
  /-- `STC{cond} p<cpnum>, CRd, <a_mode5>`, R320, R109, coprocessor-load-store-unindexed, 0x0C800000. -/
  | stcUnidx (c : Cond) (n : Bool) (rn : Reg) (crd cp : BitVec 4) (off : BitVec 8)
  /-- `CDP{cond} p<cpnum>, <op1>, CRd, CRn, CRm, <op2>`, R312, R109, coprocessor-data-op, 0x0E000000. -/
  | cdp (c : Cond) (op1 crn crd cp : BitVec 4) (op2 : BitVec 3) (crm : BitVec 4)
  /-- `MRC{cond} p<cpnum>, <op1>, Rd, CRn, CRm, <op2>`, R314, R109, coprocessor-register-move, 0x0E100010. -/
  | mrc (c : Cond) (op1 : BitVec 3) (crn : BitVec 4) (rd : Reg) (cp : BitVec 4) (op2 : BitVec 3) (crm : BitVec 4)
  /-- `MCR{cond} p<cpnum>, <op1>, Rd, CRn, CRm, <op2>`, R316, R109, coprocessor-register-move, 0x0E000010. -/
  | mcr (c : Cond) (op1 : BitVec 3) (crn : BitVec 4) (rd : Reg) (cp : BitVec 4) (op2 : BitVec 3) (crm : BitVec 4)
  /-- `SWI{cond} <immed_24>`, R330, R110, software-interrupt, 0x0F000000. -/
  | swi (c : Cond) (imm : BitVec 24)
  /-- `(no assembler form)`, R113, R113, undefined-instruction, 0x06000010. -/
  | undefReg (c : Cond) (hi : BitVec 20) (lo : BitVec 4)
  /-- `(no assembler form)`, R113, R113, undefined-instruction, 0x03000000. -/
  | undefImm (c : Cond) (b22 : Bool) (lo : BitVec 20)
deriving DecidableEq, Repr

end Sys2Proof
end

