-- ==== Sys2Proof/Machine/Flags.lean ====
section
/-!
DEFINITION. Flags.lean: the fields of a program status register (spec/10_state.md R30, R36, R37), the conditions
(spec/30_encoding.md R91) and every flag computation (spec/41_arithmetic.md R160, R161).
-/

namespace Sys2Proof.Machine

/-! ## The fields of a PSR (R30) -/

/-- Bit 31, N. -/
def Psr.n (p : Word) : Bool := p.getLsbD 31

/-- Bit 30, Z. -/
def Psr.z (p : Word) : Bool := p.getLsbD 30

/-- Bit 29, C. -/
def Psr.c (p : Word) : Bool := p.getLsbD 29

/-- Bit 28, V. -/
def Psr.v (p : Word) : Bool := p.getLsbD 28

/-- Bit 27, Q. -/
def Psr.q (p : Word) : Bool := p.getLsbD 27

/-- Bit 7, I. -/
def Psr.i (p : Word) : Bool := p.getLsbD 7

/-- Bit 6, F. -/
def Psr.f (p : Word) : Bool := p.getLsbD 6

/-- Bit 5, T. -/
def Psr.t (p : Word) : Bool := p.getLsbD 5

/-- Bits 4:0, M. -/
def Psr.mode (p : Word) : BitVec 5 := p.extractLsb' 0 5

/-- Bits 26:8, reserved under `ARCH` = 5TE (R37). -/
def Psr.reserved (p : Word) : BitVec 19 := p.extractLsb' 8 19

/-- `p` with N, Z, C and V replaced. -/
def Psr.withNZCV (p : Word) (n z c v : Bool) : Word :=
  BitVec.ofBool n ++ BitVec.ofBool z ++ BitVec.ofBool c ++ BitVec.ofBool v ++ p.extractLsb' 0 28

/-- `p` with Q replaced. -/
def Psr.withQ (p : Word) (q : Bool) : Word := p.extractLsb' 28 4 ++ BitVec.ofBool q ++ p.extractLsb' 0 27

/-- `p` with T replaced. -/
def Psr.withT (p : Word) (t : Bool) : Word := p.extractLsb' 6 26 ++ BitVec.ofBool t ++ p.extractLsb' 0 5

/-- `p` as exception entry leaves it (R350): I = 1, F as given, T = 0, M as given, the other bits kept. -/
def Psr.entered (p : Word) (f : Bool) (mode : BitVec 5) : Word :=
  p.extractLsb' 8 24 ++ 0b1#1 ++ BitVec.ofBool f ++ 0b0#1 ++ mode

/-- The seven legal mode numbers (R36). -/
def Psr.legalMode (m : BitVec 5) : Bool :=
  m == 0b10000#5 || m == 0b10001#5 || m == 0b10010#5 || m == 0b10011#5 || m == 0b10111#5 || m == 0b11011#5
    || m == 0b11111#5

/-- `UnallocMask` (R37). -/
def Psr.unallocMask : Word := 0x07FFFF00#32

/-- `UserMask` (R37). -/
def Psr.userMask : Word := 0xF8000000#32

/-- `PrivMask` (R37). -/
def Psr.privMask : Word := 0x000000DF#32

/-- `StateMask` (R37). -/
def Psr.stateMask : Word := 0x00000020#32

/-- The bytes that an MSR field mask selects (R39): bit 0 is c, bit 1 x, bit 2 s, bit 3 f. -/
def Psr.byteMask (fields : BitVec 4) : Word :=
  (if fields.getLsbD 3 then 0xFF#8 else 0x00#8) ++ (if fields.getLsbD 2 then 0xFF#8 else 0x00#8)
    ++ (if fields.getLsbD 1 then 0xFF#8 else 0x00#8) ++ (if fields.getLsbD 0 then 0xFF#8 else 0x00#8)

/-! ## The conditions (R91) -/

/-- `ConditionPassed` (R91) in a CPSR. -/
def condHolds (c : Cond) (p : Word) : Bool :=
  match c with
  | .eq => Psr.z p
  | .ne => !Psr.z p
  | .cs => Psr.c p
  | .cc => !Psr.c p
  | .mi => Psr.n p
  | .pl => !Psr.n p
  | .vs => Psr.v p
  | .vc => !Psr.v p
  | .hi => Psr.c p && !Psr.z p
  | .ls => !Psr.c p || Psr.z p
  | .ge => Psr.n p == Psr.v p
  | .lt => Psr.n p != Psr.v p
  | .gt => !Psr.z p && Psr.n p == Psr.v p
  | .le => Psr.z p || Psr.n p != Psr.v p
  | .al => true

/-! ## Results and flags -/

/-- What an operation of the data-processing frame gives (R144): the 32-bit result and the values for C and V. -/
structure Alu where
  result : Word
  c : Bool
  v : Bool
deriving DecidableEq, Repr

/-- `AddWithCarry` (R161): the sum is formed exactly, then narrowed; C is the carry out, V says that the signed sum
does not fit. -/
def addWithCarry (a b : Word) (cin : Bool) : Alu :=
  let u := a.toNat + b.toNat + cin.toNat
  let result := BitVec.ofNat 32 u
  { result := result
    c := decide (2 ^ 32 ≤ u)
    v := decide (a.toInt + b.toInt + (cin.toNat : Int) ≠ result.toInt) }

/-- Whether an exact integer fits in 32 signed bits. -/
def fitsSigned (x : Int) : Bool := decide (-(2 ^ 31) ≤ x) && decide (x ≤ 2 ^ 31 - 1)

/-- `SAT` (R160): the result clamped to 32 signed bits. -/
def sat (x : Int) : Word :=
  if 2 ^ 31 - 1 < x then 0x7FFFFFFF#32 else if x < -(2 ^ 31) then 0x80000000#32 else BitVec.ofInt 32 x

/-- N and Z of a 32-bit result, C and V as given (R31). -/
def Psr.setNZCV (p result : Word) (c v : Bool) : Word := Psr.withNZCV p (result.getLsbD 31) (result == 0x00000000#32) c v

/-- N and Z of a 32-bit result; C and V unchanged (R181, R193 under `ARCH` = 5TE). -/
def Psr.setNZ (p result : Word) : Word := Psr.setNZCV p result (Psr.c p) (Psr.v p)

/-- N and Z of a 64-bit result; C and V unchanged (R183, R193 under `ARCH` = 5TE). -/
def Psr.setNZ64 (p : Word) (result : BitVec 64) : Word :=
  Psr.withNZCV p (result.getLsbD 63) (result == 0x0000000000000000#64) (Psr.c p) (Psr.v p)

/-- Q is set when an operation overflowed, and never cleared (R32). -/
def Psr.stickyQ (p : Word) (overflowed : Bool) : Word := if overflowed then Psr.withQ p true else p

/-- N, Z, C, V from the top four bits of a word (R314, MRC to R15). -/
def Psr.setTopFour (p value : Word) : Word :=
  Psr.withNZCV p (value.getLsbD 31) (value.getLsbD 30) (value.getLsbD 29) (value.getLsbD 28)

end Sys2Proof.Machine
end

