-- ==== Sys2Proof/WellFormed.lean ====
section
/-!
DEFINITION. WellFormed.lean: what a term of `Instr` must meet to be the reading of some instruction word
(the `constraints` of spec/opcode_table.json, spec/30_encoding.md R129 (d)). Restrictions on which registers an
instruction may name (R180, R246, R288 and the like) are not here: such a word is decoded, and its meaning refuses it.
-/

namespace Sys2Proof

/-- The word of `NOP` is `MOV R0, R0` with condition AL (R126 (a), R206): read as `nop`, never as a MOV. -/
def isNopMov (c : Cond) (sf : Bool) (rd : Reg) (amt : BitVec 5) (sh : ShiftKind) (rm : Reg) : Bool :=
  c == .al && !sf && rd == 0#4 && amt == 0#5 && sh == .lsl && rm == 0#4

/-- Whether the term is the reading of a word: a MOV is not the NOP word (R129 (d)); `LDR Rd` does not name R15, which
is the row `LDR R15` (R252); a register list that cannot hold R15, and the list of a store, is not empty (R288 (a)). -/
def Instr.wf : Instr → Bool
  | .movShift c sf rd amt sh rm => !isNopMov c sf rd amt sh rm
  | .ldrImm _ _ _ _ rd _ => rd != 15#4
  | .ldrReg _ _ _ _ rd _ _ _ => rd != 15#4
  | .ldm _ _ _ _ list => list != 0#15
  | .ldmUser _ _ _ list => list != 0#15
  | .stm _ _ _ _ list => list != 0#16
  | .stmUser _ _ _ list => list != 0#16
  | .blxLabel .. | .ldc2Off .. | .ldc2Post .. | .ldc2Unidx .. | .stc2Off .. | .stc2Post .. | .stc2Unidx ..
  | .cdp2 .. | .mrc2 .. | .mcr2 .. | .mul .. | .mla .. | .umull .. | .umlal .. | .smull .. | .smlal ..
  | .swp .. | .swpb .. | .ldrhImm .. | .ldrhImmPost .. | .ldrhReg .. | .ldrhRegPost .. | .ldrsbImm ..
  | .ldrsbImmPost .. | .ldrsbReg .. | .ldrsbRegPost .. | .ldrshImm .. | .ldrshImmPost .. | .ldrshReg ..
  | .ldrshRegPost .. | .strhImm .. | .strhImmPost .. | .strhReg .. | .strhRegPost .. | .mrsCpsr ..
  | .mrsSpsr .. | .msrCpsrReg .. | .msrSpsrReg .. | .msrCpsrImm .. | .msrSpsrImm .. | .bx .. | .blxReg ..
  | .clz .. | .bkpt .. | .qadd .. | .qsub .. | .qdadd .. | .qdsub .. | .smlaxy .. | .smlawy .. | .smulwy ..
  | .smlalxy .. | .smulxy .. | .nop | .andImm .. | .andShift .. | .andReg .. | .eorImm .. | .eorShift ..
  | .eorReg .. | .subImm .. | .subShift .. | .subReg .. | .rsbImm .. | .rsbShift .. | .rsbReg .. | .addImm ..
  | .addShift .. | .addReg .. | .adcImm .. | .adcShift .. | .adcReg .. | .sbcImm .. | .sbcShift .. | .sbcReg ..
  | .rscImm .. | .rscShift .. | .rscReg .. | .tstImm .. | .tstShift .. | .tstReg .. | .teqImm .. | .teqShift ..
  | .teqReg .. | .cmpImm .. | .cmpShift .. | .cmpReg .. | .cmnImm .. | .cmnShift .. | .cmnReg .. | .orrImm ..
  | .orrShift .. | .orrReg .. | .movImm .. | .movReg .. | .bicImm .. | .bicShift .. | .bicReg .. | .mvnImm ..
  | .mvnShift .. | .mvnReg .. | .ldrtImm .. | .ldrtReg .. | .ldrbtImm .. | .ldrbtReg .. | .strtImm ..
  | .strtReg .. | .strbtImm .. | .strbtReg .. | .ldrPcImm .. | .ldrPcReg .. | .ldrbImm .. | .ldrbReg ..
  | .strImm .. | .strReg .. | .strbImm .. | .strbReg .. | .ldmPc .. | .ldmPcRet .. | .b .. | .bl ..
  | .ldcOff .. | .ldcPost .. | .ldcUnidx .. | .stcOff .. | .stcPost .. | .stcUnidx .. | .cdp .. | .mrc ..
  | .mcr .. | .swi .. | .undefReg .. | .undefImm .. => true

end Sys2Proof
end

