-- ==== Sys2Proof/Decode.lean ====
section
/-!
DEFINITION. Decode.lean: from bits to instructions and back (spec/30_encoding.md R90, R100 to R115, R129).

`decode` follows the decode order of R111, with the unconditional space of R115 and the should-be fields of R112; it is
total and rejects by name. `encode` is written from the same formats. `decodeTableWord` reads a table word.
-/

namespace Sys2Proof

/-- Why a word is not an instruction of the card: the names of the decoder's rejections. -/
inductive DecodeError where
  /-- Fewer than four bytes (R90: every instruction is one 32-bit word). -/
  | truncated
  /-- None of the card's 77 forms, nor a pattern of R113 (R114). -/
  | notAdmitted
  /-- The condition value 1111 outside the six unconditional forms (R115). -/
  | unconditionalSpace
  /-- A should-be-zero field is not all zeros, or a should-be-one field not all ones (R112). -/
  | shouldBeField
  /-- BKPT with a condition other than AL (R115). -/
  | conditionalBreakpoint
  /-- Addressing mode 3 with P = 0 and W = 1 (R106, R246 (f)). -/
  | mode3PostWriteback
  /-- `^` with `!` in a user-register form (R288 (g)). -/
  | userTransferWriteback
  /-- An empty register list (R288 (a)). -/
  | emptyRegisterList
deriving DecidableEq, Repr

/-- The 4-bit code of a condition (R91). -/
def Cond.bits : Cond → BitVec 4
  | .eq => 0b0000#4 | .ne => 0b0001#4 | .cs => 0b0010#4 | .cc => 0b0011#4 | .mi => 0b0100#4 | .pl => 0b0101#4
  | .vs => 0b0110#4 | .vc => 0b0111#4 | .hi => 0b1000#4 | .ls => 0b1001#4 | .ge => 0b1010#4 | .lt => 0b1011#4
  | .gt => 0b1100#4 | .le => 0b1101#4 | .al => 0b1110#4

/-- The condition of a 4-bit code; none for 1111, the unconditional space (R91, R115). -/
def Cond.ofBits (b : BitVec 4) : Option Cond :=
  match b with
  | 0b0000#4 => some .eq | 0b0001#4 => some .ne | 0b0010#4 => some .cs | 0b0011#4 => some .cc
  | 0b0100#4 => some .mi | 0b0101#4 => some .pl | 0b0110#4 => some .vs | 0b0111#4 => some .vc
  | 0b1000#4 => some .hi | 0b1001#4 => some .ls | 0b1010#4 => some .ge | 0b1011#4 => some .lt
  | 0b1100#4 => some .gt | 0b1101#4 => some .le | 0b1110#4 => some .al
  | _ => none

/-- The 2-bit code of a shift (R100). -/
def ShiftKind.bits : ShiftKind → BitVec 2
  | .lsl => 0b00#2 | .lsr => 0b01#2 | .asr => 0b10#2 | .ror => 0b11#2

/-- The shift of a 2-bit code (R100). -/
def ShiftKind.ofBits (b : BitVec 2) : ShiftKind :=
  match b with
  | 0b00#2 => .lsl | 0b01#2 => .lsr | 0b10#2 => .asr | _ => .ror

/-- The bits P and W of an index mode (R105). -/
def IndexMode.p : IndexMode → Bool
  | .offset => true | .pre => true | .post => false

/-- See `IndexMode.p`. -/
def IndexMode.w : IndexMode → Bool
  | .offset => false | .pre => true | .post => false

/-- The index mode of P and W; P = 0 with W = 1 marks the T forms and is no index mode (R105). -/
def IndexMode.ofBits (p w : Bool) : Option IndexMode :=
  match p, w with
  | true, false => some .offset
  | true, true => some .pre
  | false, false => some .post
  | false, true => none

/-- The bits P and U of a block mode (R107, R280). -/
def BlockMode.bits : BlockMode → BitVec 2
  | .ia => 0b01#2 | .ib => 0b11#2 | .da => 0b00#2 | .db => 0b10#2

/-- The block mode of the bits P and U (R107, R280). -/
def BlockMode.ofBits (b : BitVec 2) : BlockMode :=
  match b with
  | 0b01#2 => .ia | 0b11#2 => .ib | 0b00#2 => .da | _ => .db

/-! ## Decoding -/

/-- A should-be field `got` that must equal `want` (R112): otherwise the word is rejected. -/
def sbz {n : Nat} (got want : BitVec n) (i : Instr) : Except DecodeError Instr :=
  if got = want then .ok i else .error .shouldBeField

/-- Data processing with the rotated immediate, by opcode (R100). TST, TEQ, CMP and CMN have Rd, MOV and MVN
have Rn should be zero. -/
def decodeDpImm (c : Cond) (sf : Bool) (opcode rn rd : BitVec 4) (rot : BitVec 4) (imm : BitVec 8) : Except DecodeError Instr :=
  match opcode with
  | 0b0000#4 => .ok (.andImm c sf rn rd rot imm)
  | 0b0001#4 => .ok (.eorImm c sf rn rd rot imm)
  | 0b0010#4 => .ok (.subImm c sf rn rd rot imm)
  | 0b0011#4 => .ok (.rsbImm c sf rn rd rot imm)
  | 0b0100#4 => .ok (.addImm c sf rn rd rot imm)
  | 0b0101#4 => .ok (.adcImm c sf rn rd rot imm)
  | 0b0110#4 => .ok (.sbcImm c sf rn rd rot imm)
  | 0b0111#4 => .ok (.rscImm c sf rn rd rot imm)
  | 0b1000#4 => sbz rd 0#4 (.tstImm c rn rot imm)
  | 0b1001#4 => sbz rd 0#4 (.teqImm c rn rot imm)
  | 0b1010#4 => sbz rd 0#4 (.cmpImm c rn rot imm)
  | 0b1011#4 => sbz rd 0#4 (.cmnImm c rn rot imm)
  | 0b1100#4 => .ok (.orrImm c sf rn rd rot imm)
  | 0b1101#4 => sbz rn 0#4 (.movImm c sf rd rot imm)
  | 0b1110#4 => .ok (.bicImm c sf rn rd rot imm)
  | _ => sbz rn 0#4 (.mvnImm c sf rd rot imm)

/-- Data processing with a register shifted by an immediate, by opcode (R100); the word 0xE1A00000 is NOP (R206). -/
def decodeDpShift (c : Cond) (sf : Bool) (opcode rn rd : BitVec 4) (amt : BitVec 5) (sh : ShiftKind) (rm : Reg) : Except DecodeError Instr :=
  match opcode with
  | 0b0000#4 => .ok (.andShift c sf rn rd amt sh rm)
  | 0b0001#4 => .ok (.eorShift c sf rn rd amt sh rm)
  | 0b0010#4 => .ok (.subShift c sf rn rd amt sh rm)
  | 0b0011#4 => .ok (.rsbShift c sf rn rd amt sh rm)
  | 0b0100#4 => .ok (.addShift c sf rn rd amt sh rm)
  | 0b0101#4 => .ok (.adcShift c sf rn rd amt sh rm)
  | 0b0110#4 => .ok (.sbcShift c sf rn rd amt sh rm)
  | 0b0111#4 => .ok (.rscShift c sf rn rd amt sh rm)
  | 0b1000#4 => sbz rd 0#4 (.tstShift c rn amt sh rm)
  | 0b1001#4 => sbz rd 0#4 (.teqShift c rn amt sh rm)
  | 0b1010#4 => sbz rd 0#4 (.cmpShift c rn amt sh rm)
  | 0b1011#4 => sbz rd 0#4 (.cmnShift c rn amt sh rm)
  | 0b1100#4 => .ok (.orrShift c sf rn rd amt sh rm)
  | 0b1101#4 => sbz rn 0#4 (if isNopMov c sf rd amt sh rm then .nop else .movShift c sf rd amt sh rm)
  | 0b1110#4 => .ok (.bicShift c sf rn rd amt sh rm)
  | _ => sbz rn 0#4 (.mvnShift c sf rd amt sh rm)

/-- Data processing with a register shifted by a register, by opcode (R100). -/
def decodeDpReg (c : Cond) (sf : Bool) (opcode rn rd : BitVec 4) (rs : Reg) (sh : ShiftKind) (rm : Reg) : Except DecodeError Instr :=
  match opcode with
  | 0b0000#4 => .ok (.andReg c sf rn rd rs sh rm)
  | 0b0001#4 => .ok (.eorReg c sf rn rd rs sh rm)
  | 0b0010#4 => .ok (.subReg c sf rn rd rs sh rm)
  | 0b0011#4 => .ok (.rsbReg c sf rn rd rs sh rm)
  | 0b0100#4 => .ok (.addReg c sf rn rd rs sh rm)
  | 0b0101#4 => .ok (.adcReg c sf rn rd rs sh rm)
  | 0b0110#4 => .ok (.sbcReg c sf rn rd rs sh rm)
  | 0b0111#4 => .ok (.rscReg c sf rn rd rs sh rm)
  | 0b1000#4 => sbz rd 0#4 (.tstReg c rn rs sh rm)
  | 0b1001#4 => sbz rd 0#4 (.teqReg c rn rs sh rm)
  | 0b1010#4 => sbz rd 0#4 (.cmpReg c rn rs sh rm)
  | 0b1011#4 => sbz rd 0#4 (.cmnReg c rn rs sh rm)
  | 0b1100#4 => .ok (.orrReg c sf rn rd rs sh rm)
  | 0b1101#4 => sbz rn 0#4 (.movReg c sf rd rs sh rm)
  | 0b1110#4 => .ok (.bicReg c sf rn rd rs sh rm)
  | _ => sbz rn 0#4 (.mvnReg c sf rd rs sh rm)

/-- Data processing with a register Operand 2, bits 27:25 = 000 (R100): bit 4 selects the shift by a register. -/
def decodeDpRegister (c : Cond) (w : Word) : Except DecodeError Instr :=
  let sf := w.getLsbD 20
  let opcode := w.extractLsb' 21 4
  let rn := w.extractLsb' 16 4
  let rd := w.extractLsb' 12 4
  let sh := ShiftKind.ofBits (w.extractLsb' 5 2)
  let rm := w.extractLsb' 0 4
  if w.getLsbD 4 then decodeDpReg c sf opcode rn rd (w.extractLsb' 8 4) sh rm
  else decodeDpShift c sf opcode rn rd (w.extractLsb' 7 5) sh rm

/-- Bits 27:25 = 000 and bits 7:4 = 1001: the multiplies (R101) and the swaps (R104). -/
def decodeMultiplySwap (c : Cond) (w : Word) : Except DecodeError Instr :=
  let sf := w.getLsbD 20
  let hi := w.extractLsb' 16 4
  let lo := w.extractLsb' 12 4
  let rs := w.extractLsb' 8 4
  let rm := w.extractLsb' 0 4
  match w.extractLsb' 21 4 with
  | 0b0000#4 => sbz lo 0#4 (.mul c sf hi rs rm)
  | 0b0001#4 => .ok (.mla c sf hi lo rs rm)
  | 0b0100#4 => .ok (.umull c sf hi lo rs rm)
  | 0b0101#4 => .ok (.umlal c sf hi lo rs rm)
  | 0b0110#4 => .ok (.smull c sf hi lo rs rm)
  | 0b0111#4 => .ok (.smlal c sf hi lo rs rm)
  | 0b1000#4 => if sf then .error .notAdmitted else sbz rs 0#4 (.swp c hi lo rm)
  | 0b1010#4 => if sf then .error .notAdmitted else sbz rs 0#4 (.swpb c hi lo rm)
  | _ => .error .notAdmitted

/-- The halfword and signed byte transfers of one kind, given their four rows (R106): by I and P. With P = 0, W must be
0; with I = 0, bits 11:8 should be zero. -/
def decodeMode3 (w : Word) (imm immPost reg regPost : Instr) : Except DecodeError Instr :=
  if !w.getLsbD 24 && w.getLsbD 21 then .error .mode3PostWriteback
  else if w.getLsbD 22 then .ok (if w.getLsbD 24 then imm else immPost)
  else sbz (w.extractLsb' 8 4) 0#4 (if w.getLsbD 24 then reg else regPost)

/-- Bits 27:25 = 000, bit 7 = 1, bit 4 = 1 and bits 6:5 not 00: addressing mode 3 (R106), by L, S and H. A store with
S = 1 is the doubleword transfer that is not on the card (R114). -/
def decodeHalfword (c : Cond) (w : Word) : Except DecodeError Instr :=
  let u := w.getLsbD 23
  let wb := w.getLsbD 21
  let rn := w.extractLsb' 16 4
  let rd := w.extractLsb' 12 4
  let imm := w.extractLsb' 8 4 ++ w.extractLsb' 0 4
  let rm := w.extractLsb' 0 4
  match w.getLsbD 20, w.getLsbD 6, w.getLsbD 5 with
  | true, false, true =>
    decodeMode3 w (.ldrhImm c u wb rn rd imm) (.ldrhImmPost c u rn rd imm) (.ldrhReg c u wb rn rd rm)
      (.ldrhRegPost c u rn rd rm)
  | true, true, false =>
    decodeMode3 w (.ldrsbImm c u wb rn rd imm) (.ldrsbImmPost c u rn rd imm) (.ldrsbReg c u wb rn rd rm)
      (.ldrsbRegPost c u rn rd rm)
  | true, true, true =>
    decodeMode3 w (.ldrshImm c u wb rn rd imm) (.ldrshImmPost c u rn rd imm) (.ldrshReg c u wb rn rd rm)
      (.ldrshRegPost c u rn rd rm)
  | false, false, true =>
    decodeMode3 w (.strhImm c u wb rn rd imm) (.strhImmPost c u rn rd imm) (.strhReg c u wb rn rd rm)
      (.strhRegPost c u rn rd rm)
  | _, _, _ => .error .notAdmitted

/-- The 16-bit multiplies, bit 7 = 1 and bit 4 = 0 of the miscellaneous space, by bits 22:21 (R102). -/
def decodeMultiply16 (c : Cond) (w : Word) : Except DecodeError Instr :=
  let y := w.getLsbD 6
  let x := w.getLsbD 5
  let hi := w.extractLsb' 16 4
  let lo := w.extractLsb' 12 4
  let rs := w.extractLsb' 8 4
  let rm := w.extractLsb' 0 4
  match w.extractLsb' 21 2 with
  | 0b00#2 => .ok (.smlaxy c x y hi lo rs rm)
  | 0b01#2 => if x then sbz lo 0#4 (.smulwy c y hi rs rm) else .ok (.smlawy c y hi lo rs rm)
  | 0b10#2 => .ok (.smlalxy c x y hi lo rs rm)
  | _ => sbz lo 0#4 (.smulxy c x y hi rs rm)

/-- Bits 27:23 = 00010 and bit 20 = 0: the miscellaneous space, by bits 7:4 (R102, R103, R111). -/
def decodeMiscellaneous (c : Cond) (w : Word) : Except DecodeError Instr :=
  let op := w.extractLsb' 21 2
  let rn := w.extractLsb' 16 4
  let rd := w.extractLsb' 12 4
  let rm := w.extractLsb' 0 4
  match w.extractLsb' 4 4 with
  | 0b0000#4 =>
    match op with
    | 0b00#2 => sbz (rn ++ w.extractLsb' 0 12) 0xF000#16 (.mrsCpsr c rd)
    | 0b10#2 => sbz (rn ++ w.extractLsb' 0 12) 0xF000#16 (.mrsSpsr c rd)
    | 0b01#2 => sbz (w.extractLsb' 8 8) 0xF0#8 (.msrCpsrReg c rn rm)
    | _ => sbz (w.extractLsb' 8 8) 0xF0#8 (.msrSpsrReg c rn rm)
  | 0b0001#4 =>
    match op with
    | 0b01#2 => sbz (w.extractLsb' 8 12) 0xFFF#12 (.bx c rm)
    | 0b11#2 => sbz (rn ++ w.extractLsb' 8 4) 0xFF#8 (.clz c rd rm)
    | _ => .error .notAdmitted
  | 0b0011#4 =>
    match op with
    | 0b01#2 => sbz (w.extractLsb' 8 12) 0xFFF#12 (.blxReg c rm)
    | _ => .error .notAdmitted
  | 0b0101#4 =>
    match op with
    | 0b00#2 => sbz (w.extractLsb' 8 4) 0#4 (.qadd c rn rd rm)
    | 0b01#2 => sbz (w.extractLsb' 8 4) 0#4 (.qsub c rn rd rm)
    | 0b10#2 => sbz (w.extractLsb' 8 4) 0#4 (.qdadd c rn rd rm)
    | _ => sbz (w.extractLsb' 8 4) 0#4 (.qdsub c rn rd rm)
  | 0b0111#4 =>
    match op with
    | 0b01#2 =>
      if c = .al then .ok (.bkpt (w.extractLsb' 8 12 ++ w.extractLsb' 0 4)) else .error .conditionalBreakpoint
    | _ => .error .notAdmitted
  | _ => if w.getLsbD 7 && !w.getLsbD 4 then decodeMultiply16 c w else .error .notAdmitted

/-- Bits 27:25 = 000, in the order of R111. -/
def decode000 (c : Cond) (w : Word) : Except DecodeError Instr :=
  if w.extractLsb' 4 4 = 0b1001#4 then decodeMultiplySwap c w
  else if w.getLsbD 7 && w.getLsbD 4 then decodeHalfword c w
  else if w.extractLsb' 23 2 = 0b10#2 && !w.getLsbD 20 then decodeMiscellaneous c w
  else decodeDpRegister c w

/-- Bits 27:25 = 001: MSR immediate (R103), the undefined pattern (b) of R113, and data processing (R100). -/
def decode001 (c : Cond) (w : Word) : Except DecodeError Instr :=
  let rot := w.extractLsb' 8 4
  let imm := w.extractLsb' 0 8
  if w.extractLsb' 23 2 = 0b10#2 && !w.getLsbD 20 then
    if w.getLsbD 21 then
      sbz (w.extractLsb' 12 4) 0xF#4
        (if w.getLsbD 22 then .msrSpsrImm c (w.extractLsb' 16 4) rot imm else .msrCpsrImm c (w.extractLsb' 16 4) rot imm)
    else .ok (.undefImm c (w.getLsbD 22) (w.extractLsb' 0 20))
  else decodeDpImm c (w.getLsbD 20) (w.extractLsb' 21 4) (w.extractLsb' 16 4) (w.extractLsb' 12 4) rot imm

/-- Bits 27:25 = 010: word and byte transfers with an immediate offset (R105); P = 0 with W = 1 are the T forms, a word
load with Rd = 1111 is `LDR R15` (R252). -/
def decode010 (c : Cond) (w : Word) : Except DecodeError Instr :=
  let u := w.getLsbD 23
  let rn := w.extractLsb' 16 4
  let rd := w.extractLsb' 12 4
  let imm := w.extractLsb' 0 12
  .ok (match IndexMode.ofBits (w.getLsbD 24) (w.getLsbD 21), w.getLsbD 22, w.getLsbD 20 with
    | none, false, true => .ldrtImm c u rn rd imm
    | none, true, true => .ldrbtImm c u rn rd imm
    | none, false, false => .strtImm c u rn rd imm
    | none, true, false => .strbtImm c u rn rd imm
    | some ix, false, true => if rd = 15#4 then .ldrPcImm c ix u rn imm else .ldrImm c ix u rn rd imm
    | some ix, true, true => .ldrbImm c ix u rn rd imm
    | some ix, false, false => .strImm c ix u rn rd imm
    | some ix, true, false => .strbImm c ix u rn rd imm)

/-- Bits 27:25 = 011: with bit 4 = 1 the undefined pattern (a) of R113; else word and byte transfers with a register
offset (R105), by the same bits as `decode010`. -/
def decode011 (c : Cond) (w : Word) : Except DecodeError Instr :=
  let u := w.getLsbD 23
  let rn := w.extractLsb' 16 4
  let rd := w.extractLsb' 12 4
  let amt := w.extractLsb' 7 5
  let sh := ShiftKind.ofBits (w.extractLsb' 5 2)
  let rm := w.extractLsb' 0 4
  .ok (if w.getLsbD 4 then .undefReg c (w.extractLsb' 5 20) rm else
    match IndexMode.ofBits (w.getLsbD 24) (w.getLsbD 21), w.getLsbD 22, w.getLsbD 20 with
    | none, false, true => .ldrtReg c u rn rd amt sh rm
    | none, true, true => .ldrbtReg c u rn rd amt sh rm
    | none, false, false => .strtReg c u rn rd amt sh rm
    | none, true, false => .strbtReg c u rn rd amt sh rm
    | some ix, false, true => if rd = 15#4 then .ldrPcReg c ix u rn amt sh rm else .ldrReg c ix u rn rd amt sh rm
    | some ix, true, true => .ldrbReg c ix u rn rd amt sh rm
    | some ix, false, false => .strReg c ix u rn rd amt sh rm
    | some ix, true, false => .strbReg c ix u rn rd amt sh rm)

/-- A register list may not be empty (R288 (a)). -/
def nonEmpty {n : Nat} (list : BitVec n) (i : Instr) : Except DecodeError Instr :=
  if list = 0#n then .error .emptyRegisterList else .ok i

/-- Bits 27:25 = 100: LDM and STM (R107), by L, S and bit 15 of the list. -/
def decode100 (c : Cond) (w : Word) : Except DecodeError Instr :=
  let am := BlockMode.ofBits (w.extractLsb' 23 2)
  let wb := w.getLsbD 21
  let rn := w.extractLsb' 16 4
  let list := w.extractLsb' 0 15
  match w.getLsbD 20, w.getLsbD 22, w.getLsbD 15 with
  | true, false, false => nonEmpty list (.ldm c am wb rn list)
  | true, false, true => .ok (.ldmPc c am wb rn list)
  | true, true, true => .ok (.ldmPcRet c am wb rn list)
  | true, true, false =>
    if wb then .error .userTransferWriteback else nonEmpty list (.ldmUser c am rn list)
  | false, false, _ => nonEmpty (w.extractLsb' 0 16) (.stm c am wb rn (w.extractLsb' 0 16))
  | false, true, _ =>
    if wb then .error .userTransferWriteback
    else nonEmpty (w.extractLsb' 0 16) (.stmUser c am rn (w.extractLsb' 0 16))

/-- Bits 27:25 = 101: B and BL (R108). -/
def decode101 (c : Cond) (w : Word) : Except DecodeError Instr :=
  .ok (if w.getLsbD 24 then .bl c (w.extractLsb' 0 24) else .b c (w.extractLsb' 0 24))

/-- Bits 27:25 = 110: LDC and STC (R109); P = 0, U = 0, W = 0 is no coprocessor load or store (R114). -/
def decode110 (c : Cond) (w : Word) : Except DecodeError Instr :=
  let u := w.getLsbD 23
  let n := w.getLsbD 22
  let wb := w.getLsbD 21
  let rn := w.extractLsb' 16 4
  let crd := w.extractLsb' 12 4
  let cp := w.extractLsb' 8 4
  let off := w.extractLsb' 0 8
  if w.getLsbD 24 then .ok (if w.getLsbD 20 then .ldcOff c u n wb rn crd cp off else .stcOff c u n wb rn crd cp off)
  else if wb then .ok (if w.getLsbD 20 then .ldcPost c u n rn crd cp off else .stcPost c u n rn crd cp off)
  else if u then .ok (if w.getLsbD 20 then .ldcUnidx c n rn crd cp off else .stcUnidx c n rn crd cp off)
  else .error .notAdmitted

/-- Bits 27:25 = 111: SWI (R110), CDP, MCR and MRC (R109). -/
def decode111 (c : Cond) (w : Word) : Except DecodeError Instr :=
  let op1 := w.extractLsb' 21 3
  let crn := w.extractLsb' 16 4
  let rd := w.extractLsb' 12 4
  let cp := w.extractLsb' 8 4
  let op2 := w.extractLsb' 5 3
  let crm := w.extractLsb' 0 4
  .ok (if w.getLsbD 24 then .swi c (w.extractLsb' 0 24)
    else if w.getLsbD 4 then
      if w.getLsbD 20 then .mrc c op1 crn rd cp op2 crm else .mcr c op1 crn rd cp op2 crm
    else .cdp c (w.extractLsb' 20 4) crn rd cp op2 crm)

/-- A word with a condition (R111). -/
def decodeConditional (c : Cond) (w : Word) : Except DecodeError Instr :=
  match w.extractLsb' 25 3 with
  | 0b000#3 => decode000 c w
  | 0b001#3 => decode001 c w
  | 0b010#3 => decode010 c w
  | 0b011#3 => decode011 c w
  | 0b100#3 => decode100 c w
  | 0b101#3 => decode101 c w
  | 0b110#3 => decode110 c w
  | _ => decode111 c w

/-- A word with bits 31:28 = 1111, the unconditional space (R115): BLX label, LDC2, STC2, CDP2, MRC2, MCR2, else
rejected. -/
def decodeUnconditional (w : Word) : Except DecodeError Instr :=
  let u := w.getLsbD 23
  let n := w.getLsbD 22
  let wb := w.getLsbD 21
  let rn := w.extractLsb' 16 4
  let crd := w.extractLsb' 12 4
  let cp := w.extractLsb' 8 4
  let off := w.extractLsb' 0 8
  let op2 := w.extractLsb' 5 3
  let crm := w.extractLsb' 0 4
  match w.extractLsb' 25 3 with
  | 0b101#3 => .ok (.blxLabel (w.getLsbD 24) (w.extractLsb' 0 24))
  | 0b110#3 =>
    if w.getLsbD 24 then .ok (if w.getLsbD 20 then .ldc2Off u n wb rn crd cp off else .stc2Off u n wb rn crd cp off)
    else if wb then .ok (if w.getLsbD 20 then .ldc2Post u n rn crd cp off else .stc2Post u n rn crd cp off)
    else if u then .ok (if w.getLsbD 20 then .ldc2Unidx n rn crd cp off else .stc2Unidx n rn crd cp off)
    else .error .unconditionalSpace
  | 0b111#3 =>
    if w.getLsbD 24 then .error .unconditionalSpace
    else if w.getLsbD 4 then
      .ok (if w.getLsbD 20 then .mrc2 (w.extractLsb' 21 3) rn crd cp op2 crm
        else .mcr2 (w.extractLsb' 21 3) rn crd cp op2 crm)
    else .ok (.cdp2 (w.extractLsb' 20 4) rn crd cp op2 crm)
  | _ => .error .unconditionalSpace

/-- The instruction form that a word selects (R111, R115), or the name of its rejection. -/
def decode (w : Word) : Except DecodeError Instr :=
  match Cond.ofBits (w.extractLsb' 28 4) with
  | some c => decodeConditional c w
  | none => decodeUnconditional w

/-- The word of four bytes, the first at the lowest address (R62, R63: little-endian, instruction fetch too). -/
def wordOfBytes (b0 b1 b2 b3 : Byte) : Word := b3 ++ b2 ++ b1 ++ b0

/-- Byte number `k` of a word, byte 0 being the least significant, at the lowest address (R62). -/
def byteOfWord (w : Word) (k : Nat) : Byte := w.extractLsb' (8 * k) 8

/-- Read one instruction from the front of a list of bytes (R90): the instruction, and the bytes left over. -/
def decodeBytes : List Byte → Except DecodeError (Instr × List Byte)
  | b0 :: b1 :: b2 :: b3 :: rest =>
    match decode (wordOfBytes b0 b1 b2 b3) with
    | .ok i => .ok (i, rest)
    | .error e => .error e
  | _ => .error .truncated

/-- The word that spec/opcode_table.json numbers `w` in `nbits` bits: bits above `nbits` are 0. -/
def tableWord (nbits w : Nat) : Word := BitVec.ofNat 32 (w % 2 ^ nbits)

/-- The four bytes of a word in the order in which the hardware stores them (R63). -/
def bytesOfWord (w : Word) : List Byte := [byteOfWord w 0, byteOfWord w 1, byteOfWord w 2, byteOfWord w 3]

/-- The instruction that the decoder reads from the table word `w`, laid out in memory order. -/
def decodeTableWord (nbits w : Nat) : Option Instr :=
  match decodeBytes (bytesOfWord (tableWord nbits w)) with
  | .ok (i, _) => some i
  | .error _ => none

/-! ## Encoding -/

/-- The data-processing format (R100). -/
def dpWord (c : Cond) (i : Bool) (opcode : BitVec 4) (sf : Bool) (rn rd : Reg) (operand : BitVec 12) : Word :=
  c.bits ++ 0b00#2 ++ BitVec.ofBool i ++ opcode ++ BitVec.ofBool sf ++ rn ++ rd ++ operand

/-- `shifter_operand` of a register shifted by an immediate (R100); also `addr_mode` of a register offset (R105). -/
def shiftField (amt : BitVec 5) (sh : ShiftKind) (rm : Reg) : BitVec 12 := amt ++ sh.bits ++ 0b0#1 ++ rm

/-- `shifter_operand` of a register shifted by a register (R100). -/
def regShiftField (rs : Reg) (sh : ShiftKind) (rm : Reg) : BitVec 12 := rs ++ 0b0#1 ++ sh.bits ++ 0b1#1 ++ rm

/-- The multiply formats (R101). -/
def mulWord (c : Cond) (op : BitVec 7) (sf : Bool) (hi lo rs rm : Reg) : Word :=
  c.bits ++ op ++ BitVec.ofBool sf ++ hi ++ lo ++ rs ++ 0b1001#4 ++ rm

/-- The miscellaneous, saturating, 16-bit multiply and swap formats (R102 to R104). -/
def miscWord (c : Cond) (op : BitVec 8) (a b d : BitVec 4) (low : BitVec 4) (rm : Reg) : Word :=
  c.bits ++ op ++ a ++ b ++ d ++ low ++ rm

/-- Bits 7:4 of a 16-bit multiply: 1, y, x, 0 (R102). -/
def mul16Field (y x : Bool) : BitVec 4 := 0b1#1 ++ BitVec.ofBool y ++ BitVec.ofBool x ++ 0b0#1

/-- Addressing mode 2 (R105). -/
def mode2Word (c : Cond) (i p u b w l : Bool) (rn rd : Reg) (am : BitVec 12) : Word :=
  c.bits ++ 0b01#2 ++ BitVec.ofBool i ++ BitVec.ofBool p ++ BitVec.ofBool u ++ BitVec.ofBool b ++ BitVec.ofBool w
    ++ BitVec.ofBool l ++ rn ++ rd ++ am

/-- Addressing mode 3 (R106); `lsh` are the bits L, S, H. -/
def mode3Word (c : Cond) (p u i w : Bool) (lsh : BitVec 3) (rn rd hi lo : BitVec 4) : Word :=
  c.bits ++ 0b000#3 ++ BitVec.ofBool p ++ BitVec.ofBool u ++ BitVec.ofBool i ++ BitVec.ofBool w
    ++ lsh.extractLsb' 2 1 ++ rn ++ rd ++ hi ++ 0b1#1 ++ lsh.extractLsb' 0 2 ++ 0b1#1 ++ lo

/-- Addressing mode 4 (R107). -/
def blockWord (c : Cond) (am : BlockMode) (sf w l : Bool) (rn : Reg) (list : BitVec 16) : Word :=
  c.bits ++ 0b100#3 ++ am.bits ++ BitVec.ofBool sf ++ BitVec.ofBool w ++ BitVec.ofBool l ++ rn ++ list

/-- The branch formats (R108); `top` is the condition or 1111. -/
def branchWord (top : BitVec 4) (bit24 : Bool) (imm : BitVec 24) : Word :=
  top ++ 0b101#3 ++ BitVec.ofBool bit24 ++ imm

/-- LDC and STC (R109); `top` is the condition or 1111. -/
def cpMemWord (top : BitVec 4) (p u n w l : Bool) (rn : Reg) (crd cp : BitVec 4) (off : BitVec 8) : Word :=
  top ++ 0b110#3 ++ BitVec.ofBool p ++ BitVec.ofBool u ++ BitVec.ofBool n ++ BitVec.ofBool w ++ BitVec.ofBool l
    ++ rn ++ crd ++ cp ++ off

/-- CDP, MCR and MRC (R109); `op1` is bits 23:20. -/
def cpOpWord (top op1 crn rd cp : BitVec 4) (op2 : BitVec 3) (bit4 : Bool) (crm : BitVec 4) : Word :=
  top ++ 0b1110#4 ++ op1 ++ crn ++ rd ++ cp ++ op2 ++ BitVec.ofBool bit4 ++ crm

/-- The word of an instruction, from the formats R100 to R110. -/
def encode : Instr → Word
  | .blxLabel h imm => branchWord 0xF#4 h imm
  | .ldc2Off u n w rn crd cp off => cpMemWord 0xF#4 true u n w true rn crd cp off
  | .ldc2Post u n rn crd cp off => cpMemWord 0xF#4 false u n true true rn crd cp off
  | .ldc2Unidx n rn crd cp off => cpMemWord 0xF#4 false true n false true rn crd cp off
  | .stc2Off u n w rn crd cp off => cpMemWord 0xF#4 true u n w false rn crd cp off
  | .stc2Post u n rn crd cp off => cpMemWord 0xF#4 false u n true false rn crd cp off
  | .stc2Unidx n rn crd cp off => cpMemWord 0xF#4 false true n false false rn crd cp off
  | .cdp2 op1 crn crd cp op2 crm => cpOpWord 0xF#4 op1 crn crd cp op2 false crm
  | .mrc2 op1 crn rd cp op2 crm => cpOpWord 0xF#4 (op1 ++ 0b1#1) crn rd cp op2 true crm
  | .mcr2 op1 crn rd cp op2 crm => cpOpWord 0xF#4 (op1 ++ 0b0#1) crn rd cp op2 true crm
  | .mul c sf rd rs rm => mulWord c 0b0000000#7 sf rd 0#4 rs rm
  | .mla c sf rd rn rs rm => mulWord c 0b0000001#7 sf rd rn rs rm
  | .umull c sf rdHi rdLo rs rm => mulWord c 0b0000100#7 sf rdHi rdLo rs rm
  | .umlal c sf rdHi rdLo rs rm => mulWord c 0b0000101#7 sf rdHi rdLo rs rm
  | .smull c sf rdHi rdLo rs rm => mulWord c 0b0000110#7 sf rdHi rdLo rs rm
  | .smlal c sf rdHi rdLo rs rm => mulWord c 0b0000111#7 sf rdHi rdLo rs rm
  | .swp c rn rd rm => miscWord c 0b00010000#8 rn rd 0#4 0b1001#4 rm
  | .swpb c rn rd rm => miscWord c 0b00010100#8 rn rd 0#4 0b1001#4 rm
  | .ldrhImm c u w rn rd imm => mode3Word c true u true w 0b101#3 rn rd (imm.extractLsb' 4 4) (imm.extractLsb' 0 4)
  | .ldrhImmPost c u rn rd imm => mode3Word c false u true false 0b101#3 rn rd (imm.extractLsb' 4 4) (imm.extractLsb' 0 4)
  | .ldrhReg c u w rn rd rm => mode3Word c true u false w 0b101#3 rn rd 0#4 rm
  | .ldrhRegPost c u rn rd rm => mode3Word c false u false false 0b101#3 rn rd 0#4 rm
  | .ldrsbImm c u w rn rd imm => mode3Word c true u true w 0b110#3 rn rd (imm.extractLsb' 4 4) (imm.extractLsb' 0 4)
  | .ldrsbImmPost c u rn rd imm => mode3Word c false u true false 0b110#3 rn rd (imm.extractLsb' 4 4) (imm.extractLsb' 0 4)
  | .ldrsbReg c u w rn rd rm => mode3Word c true u false w 0b110#3 rn rd 0#4 rm
  | .ldrsbRegPost c u rn rd rm => mode3Word c false u false false 0b110#3 rn rd 0#4 rm
  | .ldrshImm c u w rn rd imm => mode3Word c true u true w 0b111#3 rn rd (imm.extractLsb' 4 4) (imm.extractLsb' 0 4)
  | .ldrshImmPost c u rn rd imm => mode3Word c false u true false 0b111#3 rn rd (imm.extractLsb' 4 4) (imm.extractLsb' 0 4)
  | .ldrshReg c u w rn rd rm => mode3Word c true u false w 0b111#3 rn rd 0#4 rm
  | .ldrshRegPost c u rn rd rm => mode3Word c false u false false 0b111#3 rn rd 0#4 rm
  | .strhImm c u w rn rd imm => mode3Word c true u true w 0b001#3 rn rd (imm.extractLsb' 4 4) (imm.extractLsb' 0 4)
  | .strhImmPost c u rn rd imm => mode3Word c false u true false 0b001#3 rn rd (imm.extractLsb' 4 4) (imm.extractLsb' 0 4)
  | .strhReg c u w rn rd rm => mode3Word c true u false w 0b001#3 rn rd 0#4 rm
  | .strhRegPost c u rn rd rm => mode3Word c false u false false 0b001#3 rn rd 0#4 rm
  | .mrsCpsr c rd => miscWord c 0b00010000#8 0xF#4 rd 0#4 0b0000#4 0#4
  | .mrsSpsr c rd => miscWord c 0b00010100#8 0xF#4 rd 0#4 0b0000#4 0#4
  | .msrCpsrReg c fields rm => miscWord c 0b00010010#8 fields 0xF#4 0#4 0b0000#4 rm
  | .msrSpsrReg c fields rm => miscWord c 0b00010110#8 fields 0xF#4 0#4 0b0000#4 rm
  | .msrCpsrImm c fields rot imm => miscWord c 0b00110010#8 fields 0xF#4 rot (imm.extractLsb' 4 4) (imm.extractLsb' 0 4)
  | .msrSpsrImm c fields rot imm => miscWord c 0b00110110#8 fields 0xF#4 rot (imm.extractLsb' 4 4) (imm.extractLsb' 0 4)
  | .bx c rm => miscWord c 0b00010010#8 0xF#4 0xF#4 0xF#4 0b0001#4 rm
  | .blxReg c rm => miscWord c 0b00010010#8 0xF#4 0xF#4 0xF#4 0b0011#4 rm
  | .clz c rd rm => miscWord c 0b00010110#8 0xF#4 rd 0xF#4 0b0001#4 rm
  | .bkpt imm => miscWord .al 0b00010010#8 (imm.extractLsb' 12 4) (imm.extractLsb' 8 4) (imm.extractLsb' 4 4) 0b0111#4
      (imm.extractLsb' 0 4)
  | .qadd c rn rd rm => miscWord c 0b00010000#8 rn rd 0#4 0b0101#4 rm
  | .qsub c rn rd rm => miscWord c 0b00010010#8 rn rd 0#4 0b0101#4 rm
  | .qdadd c rn rd rm => miscWord c 0b00010100#8 rn rd 0#4 0b0101#4 rm
  | .qdsub c rn rd rm => miscWord c 0b00010110#8 rn rd 0#4 0b0101#4 rm
  | .smlaxy c x y rd rn rs rm => miscWord c 0b00010000#8 rd rn rs (mul16Field y x) rm
  | .smlawy c y rd rn rs rm => miscWord c 0b00010010#8 rd rn rs (mul16Field y false) rm
  | .smulwy c y rd rs rm => miscWord c 0b00010010#8 rd 0#4 rs (mul16Field y true) rm
  | .smlalxy c x y rdHi rdLo rs rm => miscWord c 0b00010100#8 rdHi rdLo rs (mul16Field y x) rm
  | .smulxy c x y rd rs rm => miscWord c 0b00010110#8 rd 0#4 rs (mul16Field y x) rm
  | .nop => 0xE1A00000#32
  | .andImm c sf rn rd rot imm => dpWord c true 0b0000#4 sf rn rd (rot ++ imm)
  | .andShift c sf rn rd amt sh rm => dpWord c false 0b0000#4 sf rn rd (shiftField amt sh rm)
  | .andReg c sf rn rd rs sh rm => dpWord c false 0b0000#4 sf rn rd (regShiftField rs sh rm)
  | .eorImm c sf rn rd rot imm => dpWord c true 0b0001#4 sf rn rd (rot ++ imm)
  | .eorShift c sf rn rd amt sh rm => dpWord c false 0b0001#4 sf rn rd (shiftField amt sh rm)
  | .eorReg c sf rn rd rs sh rm => dpWord c false 0b0001#4 sf rn rd (regShiftField rs sh rm)
  | .subImm c sf rn rd rot imm => dpWord c true 0b0010#4 sf rn rd (rot ++ imm)
  | .subShift c sf rn rd amt sh rm => dpWord c false 0b0010#4 sf rn rd (shiftField amt sh rm)
  | .subReg c sf rn rd rs sh rm => dpWord c false 0b0010#4 sf rn rd (regShiftField rs sh rm)
  | .rsbImm c sf rn rd rot imm => dpWord c true 0b0011#4 sf rn rd (rot ++ imm)
  | .rsbShift c sf rn rd amt sh rm => dpWord c false 0b0011#4 sf rn rd (shiftField amt sh rm)
  | .rsbReg c sf rn rd rs sh rm => dpWord c false 0b0011#4 sf rn rd (regShiftField rs sh rm)
  | .addImm c sf rn rd rot imm => dpWord c true 0b0100#4 sf rn rd (rot ++ imm)
  | .addShift c sf rn rd amt sh rm => dpWord c false 0b0100#4 sf rn rd (shiftField amt sh rm)
  | .addReg c sf rn rd rs sh rm => dpWord c false 0b0100#4 sf rn rd (regShiftField rs sh rm)
  | .adcImm c sf rn rd rot imm => dpWord c true 0b0101#4 sf rn rd (rot ++ imm)
  | .adcShift c sf rn rd amt sh rm => dpWord c false 0b0101#4 sf rn rd (shiftField amt sh rm)
  | .adcReg c sf rn rd rs sh rm => dpWord c false 0b0101#4 sf rn rd (regShiftField rs sh rm)
  | .sbcImm c sf rn rd rot imm => dpWord c true 0b0110#4 sf rn rd (rot ++ imm)
  | .sbcShift c sf rn rd amt sh rm => dpWord c false 0b0110#4 sf rn rd (shiftField amt sh rm)
  | .sbcReg c sf rn rd rs sh rm => dpWord c false 0b0110#4 sf rn rd (regShiftField rs sh rm)
  | .rscImm c sf rn rd rot imm => dpWord c true 0b0111#4 sf rn rd (rot ++ imm)
  | .rscShift c sf rn rd amt sh rm => dpWord c false 0b0111#4 sf rn rd (shiftField amt sh rm)
  | .rscReg c sf rn rd rs sh rm => dpWord c false 0b0111#4 sf rn rd (regShiftField rs sh rm)
  | .tstImm c rn rot imm => dpWord c true 0b1000#4 true rn 0#4 (rot ++ imm)
  | .tstShift c rn amt sh rm => dpWord c false 0b1000#4 true rn 0#4 (shiftField amt sh rm)
  | .tstReg c rn rs sh rm => dpWord c false 0b1000#4 true rn 0#4 (regShiftField rs sh rm)
  | .teqImm c rn rot imm => dpWord c true 0b1001#4 true rn 0#4 (rot ++ imm)
  | .teqShift c rn amt sh rm => dpWord c false 0b1001#4 true rn 0#4 (shiftField amt sh rm)
  | .teqReg c rn rs sh rm => dpWord c false 0b1001#4 true rn 0#4 (regShiftField rs sh rm)
  | .cmpImm c rn rot imm => dpWord c true 0b1010#4 true rn 0#4 (rot ++ imm)
  | .cmpShift c rn amt sh rm => dpWord c false 0b1010#4 true rn 0#4 (shiftField amt sh rm)
  | .cmpReg c rn rs sh rm => dpWord c false 0b1010#4 true rn 0#4 (regShiftField rs sh rm)
  | .cmnImm c rn rot imm => dpWord c true 0b1011#4 true rn 0#4 (rot ++ imm)
  | .cmnShift c rn amt sh rm => dpWord c false 0b1011#4 true rn 0#4 (shiftField amt sh rm)
  | .cmnReg c rn rs sh rm => dpWord c false 0b1011#4 true rn 0#4 (regShiftField rs sh rm)
  | .orrImm c sf rn rd rot imm => dpWord c true 0b1100#4 sf rn rd (rot ++ imm)
  | .orrShift c sf rn rd amt sh rm => dpWord c false 0b1100#4 sf rn rd (shiftField amt sh rm)
  | .orrReg c sf rn rd rs sh rm => dpWord c false 0b1100#4 sf rn rd (regShiftField rs sh rm)
  | .movImm c sf rd rot imm => dpWord c true 0b1101#4 sf 0#4 rd (rot ++ imm)
  | .movShift c sf rd amt sh rm => dpWord c false 0b1101#4 sf 0#4 rd (shiftField amt sh rm)
  | .movReg c sf rd rs sh rm => dpWord c false 0b1101#4 sf 0#4 rd (regShiftField rs sh rm)
  | .bicImm c sf rn rd rot imm => dpWord c true 0b1110#4 sf rn rd (rot ++ imm)
  | .bicShift c sf rn rd amt sh rm => dpWord c false 0b1110#4 sf rn rd (shiftField amt sh rm)
  | .bicReg c sf rn rd rs sh rm => dpWord c false 0b1110#4 sf rn rd (regShiftField rs sh rm)
  | .mvnImm c sf rd rot imm => dpWord c true 0b1111#4 sf 0#4 rd (rot ++ imm)
  | .mvnShift c sf rd amt sh rm => dpWord c false 0b1111#4 sf 0#4 rd (shiftField amt sh rm)
  | .mvnReg c sf rd rs sh rm => dpWord c false 0b1111#4 sf 0#4 rd (regShiftField rs sh rm)
  | .ldrtImm c u rn rd imm => mode2Word c false false u false true true rn rd imm
  | .ldrtReg c u rn rd amt sh rm => mode2Word c true false u false true true rn rd (shiftField amt sh rm)
  | .ldrbtImm c u rn rd imm => mode2Word c false false u true true true rn rd imm
  | .ldrbtReg c u rn rd amt sh rm => mode2Word c true false u true true true rn rd (shiftField amt sh rm)
  | .strtImm c u rn rd imm => mode2Word c false false u false true false rn rd imm
  | .strtReg c u rn rd amt sh rm => mode2Word c true false u false true false rn rd (shiftField amt sh rm)
  | .strbtImm c u rn rd imm => mode2Word c false false u true true false rn rd imm
  | .strbtReg c u rn rd amt sh rm => mode2Word c true false u true true false rn rd (shiftField amt sh rm)
  | .ldrPcImm c ix u rn imm => mode2Word c false ix.p u false ix.w true rn 15#4 imm
  | .ldrPcReg c ix u rn amt sh rm => mode2Word c true ix.p u false ix.w true rn 15#4 (shiftField amt sh rm)
  | .ldrImm c ix u rn rd imm => mode2Word c false ix.p u false ix.w true rn rd imm
  | .ldrReg c ix u rn rd amt sh rm => mode2Word c true ix.p u false ix.w true rn rd (shiftField amt sh rm)
  | .ldrbImm c ix u rn rd imm => mode2Word c false ix.p u true ix.w true rn rd imm
  | .ldrbReg c ix u rn rd amt sh rm => mode2Word c true ix.p u true ix.w true rn rd (shiftField amt sh rm)
  | .strImm c ix u rn rd imm => mode2Word c false ix.p u false ix.w false rn rd imm
  | .strReg c ix u rn rd amt sh rm => mode2Word c true ix.p u false ix.w false rn rd (shiftField amt sh rm)
  | .strbImm c ix u rn rd imm => mode2Word c false ix.p u true ix.w false rn rd imm
  | .strbReg c ix u rn rd amt sh rm => mode2Word c true ix.p u true ix.w false rn rd (shiftField amt sh rm)
  | .ldm c am w rn list => blockWord c am false w true rn (0b0#1 ++ list)
  | .ldmPc c am w rn list => blockWord c am false w true rn (0b1#1 ++ list)
  | .ldmPcRet c am w rn list => blockWord c am true w true rn (0b1#1 ++ list)
  | .ldmUser c am rn list => blockWord c am true false true rn (0b0#1 ++ list)
  | .stm c am w rn list => blockWord c am false w false rn list
  | .stmUser c am rn list => blockWord c am true false false rn list
  | .b c imm => branchWord c.bits false imm
  | .bl c imm => branchWord c.bits true imm
  | .ldcOff c u n w rn crd cp off => cpMemWord c.bits true u n w true rn crd cp off
  | .ldcPost c u n rn crd cp off => cpMemWord c.bits false u n true true rn crd cp off
  | .ldcUnidx c n rn crd cp off => cpMemWord c.bits false true n false true rn crd cp off
  | .stcOff c u n w rn crd cp off => cpMemWord c.bits true u n w false rn crd cp off
  | .stcPost c u n rn crd cp off => cpMemWord c.bits false u n true false rn crd cp off
  | .stcUnidx c n rn crd cp off => cpMemWord c.bits false true n false false rn crd cp off
  | .cdp c op1 crn crd cp op2 crm => cpOpWord c.bits op1 crn crd cp op2 false crm
  | .mrc c op1 crn rd cp op2 crm => cpOpWord c.bits (op1 ++ 0b1#1) crn rd cp op2 true crm
  | .mcr c op1 crn rd cp op2 crm => cpOpWord c.bits (op1 ++ 0b0#1) crn rd cp op2 true crm
  | .swi c imm => c.bits ++ 0b1111#4 ++ imm
  | .undefReg c hi lo => c.bits ++ 0b011#3 ++ hi ++ 0b1#1 ++ lo
  | .undefImm c b22 lo => c.bits ++ 0b00110#5 ++ BitVec.ofBool b22 ++ 0b00#2 ++ lo

end Sys2Proof
end

