-- ==== Sys2Proof/Machine/State.lean ====
section
/-!
DEFINITION. State.lean: the state of the machine as plain data, its value after reset, and the reasons for which a run
stops (spec/10_state.md, spec/20_memory.md, spec/70_reset_and_hazards.md). INVENTORY.md lists every field with its rule.
-/

namespace Sys2Proof.Machine

/-- The six register banks (R29): USER and System share `usr`. -/
inductive Bank where
  | usr | fiq | irq | svc | abt | und
deriving DecidableEq, Repr

/-- The exceptions that an instruction or an interrupt raises (R340); Reset is `State.reset` (R343). -/
inductive Exc where
  | undefined | swi | prefetchAbort | dataAbort | irq | fiq
deriving DecidableEq, Repr

/-- The five saved program status registers (R20 (c), R40). -/
structure Spsrs where
  fiq : Word
  irq : Word
  svc : Word
  abt : Word
  und : Word
deriving DecidableEq, Repr

/-- The sizes of an access (R61). -/
inductive Size where
  | byte | half | word
deriving DecidableEq, Repr

/-- The kinds of access that `ABORTS` tells apart (R66 to R68). -/
inductive AccessKind where
  | read | write | fetch
deriving DecidableEq, Repr

/-- The byte addresses from `lo` to `hi`, both inclusive: one piece of `MEM_MAP` (R72). -/
structure AddrRange where
  lo : Nat
  hi : Nat
deriving DecidableEq, Repr

/-- One case in which `ABORTS(addr, n, kind, privileged)` is true (R73, R79): `addr` from `lo` to `hi`, the other three
arguments exactly as given. -/
structure AbortRule where
  lo : Nat
  hi : Nat
  size : Size
  kind : AccessKind
  privileged : Bool
deriving DecidableEq, Repr

/-- The two interrupt request lines at one instruction boundary (R43). -/
structure LineSample where
  irq : Bool
  fiq : Bool
deriving DecidableEq, Repr

/-- Memory (R42, R60): the bytes that differ from `Memory.unlisted`, by rising address. -/
abbrev Memory := List Host.Cell

/-- DESIGN CHOICE (log 2), unsafe: what a byte reads as that the loaded image does not give and nothing has written. -/
def Memory.unlisted : Byte := 0x00#8

/-- The canonical form from address `lo` on: addresses rise, stay below 2^32, and no entry is the unlisted byte. -/
def Memory.wfFrom (lo : Nat) : Memory → Bool
  | [] => true
  | (a, b) :: rest => decide (lo ≤ a) && decide (a < 2 ^ 32) && b != Memory.unlisted && Memory.wfFrom (a + 1) rest

/-- The canonical form of memory: equal memories are equal lists. -/
def Memory.wf (m : Memory) : Bool := Memory.wfFrom 0 m

/-- A set of byte addresses, rising. -/
abbrev AddrSet := List Nat

/-- The canonical form of an address set from `lo` on. -/
def AddrSet.wfFrom (lo : Nat) : AddrSet → Bool
  | [] => true
  | a :: rest => decide (lo ≤ a) && AddrSet.wfFrom (a + 1) rest

/-- The canonical form of an address set. -/
def AddrSet.wf (l : AddrSet) : Bool := AddrSet.wfFrom 0 l

/-- The state of the machine (R20), the platform's parameters (R72, R79, R310) and the environment's inputs (R43). -/
structure State where
  /-- The 30 physical general registers that are not R15 (R29), in the order of `Bank.index`. -/
  gpr : Vector Word 30
  /-- R15, the address of the instruction to be executed (R27). -/
  pc : Word
  /-- The CPSR (R30). -/
  cpsr : Word
  /-- The five SPSRs (R40). -/
  spsr : Spsrs
  /-- Memory (R42). -/
  mem : Memory
  /-- The bytes that a store has written since the program was loaded (R68, R77). -/
  written : AddrSet
  /-- `MEM_MAP`: the byte addresses that hold plain memory (R72). -/
  memMap : List AddrRange
  /-- `ABORTS`: where the memory system cannot complete an access (R79). -/
  aborts : List AbortRule
  /-- `COPROC`: which coprocessors are present (R41, R310). -/
  coprocs : Vector Bool 16
  /-- `S_p`: the state of each coprocessor, coded as a number (R310; log 6). -/
  cpState : Vector Nat 16
  /-- `IRQ_LINE` and `FIQ_LINE` at the coming boundaries, the next first; both 0 when the list ends (R43; log 5). -/
  lines : List LineSample
  /-- Whether the previous instruction was a user-register LDM or STM whose condition passed (R403); that one which took a
  Data Abort counts is DEDUCED (log 11). -/
  userXfer : Bool
deriving DecidableEq, Repr

/-- Why the machine stops with a fault. -/
inductive Fault where
  /-- Raised by a data access or a fetch that touches the byte address `addr` outside `MEM_MAP` (R66, R68, R72). Safe:
  the spec gives no meaning to such an access, and a run that meets one has no end state. -/
  | outsideMemMap (addr : Word)
deriving DecidableEq, Repr

/-- Why the machine gives a step no meaning. All are safe: the spec says `refuse` there, so that nothing is proved of
a run that meets one (R404 (a), D15). -/
inductive Refusal where
  /-- Raised by the arm of an instruction that this model gives no meaning yet. Safe. -/
  | notModelled (mnemonic : String)
  /-- Raised by `step` when the fetched word is no instruction (R112, R114, R115). Safe. -/
  | undecodable (e : DecodeError)
  /-- Raised by `step` when T = 1 (R27 step 2, D8). Safe. -/
  | thumbState
  /-- Raised when sequential execution would pass 0xFFFFFFFC (R28). Safe. -/
  | sequentialWrap
  /-- Raised by a write of a misaligned ARM-state address to R15 (R26, D7). Safe. -/
  | misalignedBranch
  /-- Raised by a misaligned data access (R64, D6). Safe. -/
  | misalignedAccess
  /-- Raised by the fetch of a byte that the program has written (R68, R77, D11). Safe. -/
  | modifiedCode
  /-- Raised by a use of the SPSR in USER or System mode (R40, R143, R145, R146, R285). Safe. -/
  | noSpsr
  /-- Raised by a write of an illegal mode number to CPSR (R36, R145, R146, R285). Safe. -/
  | illegalMode
  /-- Raised by an MSR with no field selected (R146). Safe. -/
  | noFieldSelected
  /-- Raised by an MSR that writes 1 to a reserved PSR bit (R37, R146). Safe. -/
  | reservedPsrBit
  /-- Raised by an MSR to the CPSR in a privileged mode with bit 5 set in a selected byte (R146). Safe. -/
  | msrSetsT
  /-- Raised by an instruction that names R15 where it may not (R99, R142, R143, R147, R148, R168, R180, R192, R224, R242,
  R244, R246, R288, R301, R316). Safe. -/
  | pcOperand
  /-- Raised by an instruction that names one register twice where it may not (R180, R301). Safe. -/
  | sameRegister
  /-- Raised by a base writeback with Rn = R15, Rn = Rd or Rn = Rm (R246, R322). Safe. -/
  | writebackConflict
  /-- Raised by LDM with `!` and Rn in the list, and by STM with `!` and Rn in the list but not first (R288). Safe. -/
  | baseInList
  /-- Raised by the user-register forms of LDM and STM in USER or System mode (R288 (e)). Safe. -/
  | userTransferMode
  /-- Raised by an instruction that names a banked register right after a user-register LDM or STM (R403). Safe. -/
  | bankedAfterUserTransfer
deriving DecidableEq, Repr

/-- What a step or a meaning answers. -/
abbrev Result := Host.Outcome State Fault Refusal

/-- What a memory access answers: a value; an abort (R79); or the end of the run. -/
inductive Access (α : Type) where
  | ok (a : α)
  | abort
  | fault (f : Fault)
  | refused (r : Refusal)
deriving DecidableEq, Repr

/-- The machine right after reset (R45, R391): Supervisor mode, ARM state, both interrupts disabled, R15 at the reset
vector. The spec leaves the other registers, the flags and the SPSRs unspecified: they are 0 here (DESIGN CHOICE, log 1,
unsafe). `MEM_MAP` is the whole space (DESIGN CHOICE, log 3); no abort, no coprocessor, no interrupt request (R9). -/
def State.reset : State :=
  { gpr := Vector.replicate 30 0x00000000#32
    pc := 0x00000000#32
    cpsr := 0x000000D3#32
    spsr := ⟨0x00000000#32, 0x00000000#32, 0x00000000#32, 0x00000000#32, 0x00000000#32⟩
    mem := []
    written := []
    memMap := [⟨0, 0xFFFFFFFF⟩]
    aborts := []
    coprocs := Vector.replicate 16 false
    cpState := Vector.replicate 16 0
    lines := []
    userXfer := false }

end Sys2Proof.Machine
end

