-- ==== Sys2Proof/Machine/Ops.lean ====
section
/-!
DEFINITION. Ops.lean: the named operations over registers, program status registers, memory, branches and exceptions,
through which every meaning and the step act on the state.
-/

namespace Sys2Proof.Machine

/-! ## Updates of one field -/

/-- The state with other general registers. -/
def State.withGpr (s : State) (g : Vector Word 30) : State := { s with gpr := g }

/-- The state with another R15. -/
def State.withPc (s : State) (v : Word) : State := { s with pc := v }

/-- The state with another CPSR. -/
def State.withCpsr (s : State) (v : Word) : State := { s with cpsr := v }

/-- The state with other SPSRs. -/
def State.withSpsr (s : State) (v : Spsrs) : State := { s with spsr := v }

/-- The state with another memory. -/
def State.withMem (s : State) (m : Memory) : State := { s with mem := m }

/-- The state with another set of written bytes. -/
def State.withWritten (s : State) (l : AddrSet) : State := { s with written := l }

/-- The state with other coprocessor states. -/
def State.withCpState (s : State) (v : Vector Nat 16) : State := { s with cpState := v }

/-- The state with other coming line samples. -/
def State.withLines (s : State) (l : List LineSample) : State := { s with lines := l }

/-- The state with another memory of a user-register transfer. -/
def State.withUserXfer (s : State) (b : Bool) : State := { s with userXfer := b }

/-! ## Banks and modes (R29, R36, R341) -/

/-- The bank of a mode (R29). An illegal mode number, which no run reaches (R36), selects `usr` (log 18). -/
def Bank.ofMode (m : BitVec 5) : Bank :=
  if m = 0b10001#5 then .fiq
  else if m = 0b10010#5 then .irq
  else if m = 0b10011#5 then .svc
  else if m = 0b10111#5 then .abt
  else if m = 0b11011#5 then .und
  else .usr

/-- The physical register that a bank selects for a register number (R29): the place in `State.gpr`. Number 15 is not
a banked register and is read and written as `pc`; its value here is not used. -/
def Bank.index (b : Bank) (r : Reg) : Fin 30 :=
  if r = 13#4 then
    match b with
    | .usr => 13 | .fiq => 20 | .irq => 22 | .svc => 24 | .abt => 26 | .und => 28
  else if r = 14#4 then
    match b with
    | .usr => 14 | .fiq => 21 | .irq => 23 | .svc => 25 | .abt => 27 | .und => 29
  else if b = .fiq ∧ 8 ≤ r.toNat then Fin.ofNat 30 (r.toNat + 7)
  else Fin.ofNat 30 r.toNat

/-- Whether a register number names a banked register of its bank (R403): R13 and R14 in an exception mode, R8 to R14
in FIQ mode. -/
def Bank.isBanked (b : Bank) (r : Reg) : Bool :=
  match b with
  | .usr => false
  | .fiq => decide (8 ≤ r.toNat) && decide (r.toNat ≤ 14)
  | .irq | .svc | .abt | .und => r == 13#4 || r == 14#4

/-- The bank in use. -/
def State.bank (s : State) : Bank := Bank.ofMode (Psr.mode s.cpsr)

/-- `InAPrivilegedMode()` (R341). -/
def State.privileged (s : State) : Bool := Psr.mode s.cpsr != 0b10000#5

/-! ## General registers (R23 to R26) -/

/-- Register `r` of a bank: R15 reads as the address of the instruction plus 8 (R25). -/
def State.bankReg (s : State) (b : Bank) (r : Reg) : Word := if r = 15#4 then s.pc + 8#32 else s.gpr[b.index r]

/-- Writes register `r` of a bank; R15 is `pc` (R26, whose alignment rule is `branchTo`'s). -/
def State.setBankReg (s : State) (b : Bank) (r : Reg) (v : Word) : State :=
  if r = 15#4 then s.withPc v else s.withGpr (s.gpr.set (b.index r) v)

/-- `x[r]` (R23). -/
def State.reg (s : State) (r : Reg) : Word := s.bankReg s.bank r

/-- `x[r] <- v` (R23). -/
def State.setReg (s : State) (r : Reg) (v : Word) : State := s.setBankReg s.bank r v

/-- The value of register `r` of a bank that a store writes: R15 is stored as `pc + PC_STORE_OFFSET` (R248, R402). -/
def State.storedReg (s : State) (b : Bank) (r : Reg) : Word :=
  if r = 15#4 then s.pc + Config.pcStoreOffset else s.bankReg b r

/-- Writes a list of registers of a bank, one after another. -/
def State.setBankRegs (s : State) (b : Bank) : List (Reg × Word) → State
  | [] => s
  | (r, v) :: rest => (s.setBankReg b r v).setBankRegs b rest

/-! ## Saved program status registers (R40) -/

/-- The SPSR of a bank; none for USER and System (R40, `CurrentModeHasSPSR`). -/
def Spsrs.get (p : Spsrs) (b : Bank) : Option Word :=
  match b with
  | .usr => none
  | .fiq => some p.fiq
  | .irq => some p.irq
  | .svc => some p.svc
  | .abt => some p.abt
  | .und => some p.und

/-- Writes the SPSR of a bank; USER and System have none. -/
def Spsrs.set (p : Spsrs) (b : Bank) (v : Word) : Spsrs :=
  match b with
  | .usr => p
  | .fiq => { p with fiq := v }
  | .irq => { p with irq := v }
  | .svc => { p with svc := v }
  | .abt => { p with abt := v }
  | .und => { p with und := v }

/-- `SPSR`, the one of the current mode (R40). -/
def State.savedPsr (s : State) : Option Word := s.spsr.get s.bank

/-! ## The end of an instruction: sequential execution and branches -/

/-- `pc <- pc + 4` (R27 step 7), refused where it would pass 0xFFFFFFFC (R28). -/
def advance (s : State) : Result :=
  if 2 ^ 32 ≤ s.pc.toNat + 4 then .refused .sequentialWrap else .next (s.withPc (s.pc + 4#32))

/-- Whether an address is a multiple of 4. -/
def wordAligned (a : Word) : Bool := a.extractLsb' 0 2 == 0b00#2

/-- An address with bit 0 cleared (R222, R145). -/
def clearBit0 (a : Word) : Word := a &&& 0xFFFFFFFE#32

/-- A write of R15 in ARM state: the target must be word-aligned (R26). -/
def branchTo (v : Word) (s : State) : Result :=
  if wordAligned v then .next (s.withPc v) else .refused .misalignedBranch

/-- A write of R15 whose bit 0 selects Thumb state (R26, R222, R252, R283). -/
def branchExchange (v : Word) (s : State) : Result :=
  if !v.getLsbD 0 && v.getLsbD 1 then .refused .misalignedBranch
  else .next ((s.withCpsr (Psr.withT s.cpsr (v.getLsbD 0))).withPc (clearBit0 v))

/-! ## Exceptions -/

/-- The bank of the mode that an exception enters (R340). -/
def Exc.bank (e : Exc) : Bank :=
  match e with
  | .undefined => .und | .swi => .svc | .prefetchAbort => .abt | .dataAbort => .abt | .irq => .irq | .fiq => .fiq

/-- The mode number that an exception enters (R340). -/
def Exc.mode (e : Exc) : BitVec 5 :=
  match e with
  | .undefined => 0b11011#5 | .swi => 0b10011#5 | .prefetchAbort => 0b10111#5 | .dataAbort => 0b10111#5
  | .irq => 0b10010#5 | .fiq => 0b10001#5

/-- The vector of an exception, less `VECTOR_BASE` (R340). -/
def Exc.vector (e : Exc) : Word :=
  match e with
  | .undefined => 0x04#32 | .swi => 0x08#32 | .prefetchAbort => 0x0C#32 | .dataAbort => 0x10#32 | .irq => 0x18#32
  | .fiq => 0x1C#32

/-- What is added to `pc` to give the return link (R340): `pc + 8` for a Data Abort, else `pc + 4`; for an interrupt
`pc` is `pc_next`, the instruction not executed. -/
def Exc.linkOffset (e : Exc) : Word :=
  match e with
  | .dataAbort => 8#32
  | .undefined | .swi | .prefetchAbort | .irq | .fiq => 4#32

/-- Taking an exception (R350): the link into R14 of the mode entered, the CPSR into its SPSR, then M, T = 0, I = 1, F = 1
for FIQ only, and `pc` at the vector. Nothing else changes but the memory of a user-register transfer (R403). -/
def takeException (e : Exc) (s : State) : State :=
  (((((s.setBankReg e.bank 14#4 (s.pc + e.linkOffset)).withSpsr (s.spsr.set e.bank s.cpsr)).withCpsr
    (Psr.entered s.cpsr (e == .fiq || Psr.f s.cpsr) e.mode)).withPc (Config.vectorBase + e.vector)).withUserXfer false)

/-- `raise E` (R350): it ends the step. -/
def raise (e : Exc) (s : State) : Result := .next (takeException e s)

/-- The return from an exception (R145, R285, R352): CPSR becomes the SPSR of the current mode and R15 the target,
word-aligned when the restored state is ARM, with bit 0 cleared when it is Thumb. -/
def returnTo (v : Word) (s : State) : Result :=
  match s.savedPsr with
  | none => .refused .noSpsr
  | some saved =>
    if !Psr.legalMode (Psr.mode saved) then .refused .illegalMode
    else if Psr.t saved then .next ((s.withCpsr saved).withPc (clearBit0 v))
    else if wordAligned v then .next ((s.withCpsr saved).withPc v)
    else .refused .misalignedBranch

/-! ## Which instructions run: the condition and the banked-register hazard -/

/-- Runs a body that is not conditional (R115), or whose condition has passed. Right after a user-register transfer an
instruction that names a banked register of the current mode is refused (R403; logs 10, 11). -/
def always (named : List Reg) (s : State) (body : State → Result) : Result :=
  if s.userXfer && named.any (fun r => s.bank.isBanked r) then .refused .bankedAfterUserTransfer
  else body (s.withUserXfer false)

/-- Runs the body of a conditional instruction that names the registers `named`: when the condition fails only R15
changes (R27 step 5). -/
def conditional (c : Cond) (named : List Reg) (s : State) (body : State → Result) : Result :=
  if condHolds c s.cpsr then always named s body else advance (s.withUserXfer false)

/-! ## Memory (R60 to R68) -/

/-- The byte at an address. -/
def Memory.get (m : Memory) (a : Nat) : Byte :=
  match m with
  | [] => Memory.unlisted
  | (k, b) :: rest => if k = a then b else Memory.get rest a

/-- Removes every entry of an address. -/
def Memory.erase (m : Memory) (a : Nat) : Memory :=
  match m with
  | [] => []
  | (k, b) :: rest => if k = a then Memory.erase rest a else (k, b) :: Memory.erase rest a

/-- Adds an entry before the first larger address. -/
def Memory.insert (m : Memory) (a : Nat) (v : Byte) : Memory :=
  match m with
  | [] => [(a, v)]
  | (k, b) :: rest => if a < k then (a, v) :: (k, b) :: rest else (k, b) :: Memory.insert rest a v

/-- Writes the byte at an address, in canonical form. -/
def Memory.put (m : Memory) (a : Nat) (v : Byte) : Memory :=
  if v = Memory.unlisted then m.erase a else (m.erase a).insert a v

/-- The byte number `k` from a word address on; addresses wrap modulo 2^32 (R60). -/
def byteAddr (a : Word) (k : Nat) : Nat := (a + BitVec.ofNat 32 k).toNat

/-- How many bytes an access moves (R61). -/
def Size.bytes (z : Size) : Nat :=
  match z with
  | .byte => 1 | .half => 2 | .word => 4

/-- The alignment an access needs (R64). -/
def Size.aligned (z : Size) (a : Word) : Bool :=
  match z with
  | .byte => true
  | .half => !a.getLsbD 0
  | .word => wordAligned a

/-- The value of an access, little-endian (R62), zero-extended to a word. -/
def Memory.load (m : Memory) (z : Size) (a : Word) : Word :=
  match z with
  | .byte => (m.get (byteAddr a 0)).setWidth 32
  | .half => (m.get (byteAddr a 1) ++ m.get (byteAddr a 0)).setWidth 32
  | .word => wordOfBytes (m.get (byteAddr a 0)) (m.get (byteAddr a 1)) (m.get (byteAddr a 2)) (m.get (byteAddr a 3))

/-- Writes the low bytes of a value, little-endian (R62, R67). -/
def Memory.store (m : Memory) (z : Size) (a v : Word) : Memory :=
  match z with
  | .byte => m.put (byteAddr a 0) (byteOfWord v 0)
  | .half => (m.put (byteAddr a 0) (byteOfWord v 0)).put (byteAddr a 1) (byteOfWord v 1)
  | .word =>
    (((m.put (byteAddr a 0) (byteOfWord v 0)).put (byteAddr a 1) (byteOfWord v 1)).put (byteAddr a 2)
      (byteOfWord v 2)).put (byteAddr a 3) (byteOfWord v 3)

/-- The byte addresses of an access. -/
def accessBytes (z : Size) (a : Word) : List Nat :=
  match z with
  | .byte => [byteAddr a 0]
  | .half => [byteAddr a 0, byteAddr a 1]
  | .word => [byteAddr a 0, byteAddr a 1, byteAddr a 2, byteAddr a 3]

/-- Adds an address to a set. -/
def AddrSet.mark (l : AddrSet) (a : Nat) : AddrSet :=
  match l with
  | [] => [a]
  | k :: rest => if a = k then k :: rest else if a < k then a :: k :: rest else k :: AddrSet.mark rest a

/-- Adds addresses to a set. -/
def AddrSet.markAll (l : AddrSet) (as : List Nat) : AddrSet :=
  match as with
  | [] => l
  | a :: rest => (l.mark a).markAll rest

/-- Removes an address from a set. -/
def AddrSet.unmark (l : AddrSet) (a : Nat) : AddrSet := l.filter (fun k => k != a)

/-- Whether an address set has an address. -/
def AddrSet.has (l : AddrSet) (a : Nat) : Bool := l.any (fun k => k == a)

/-- Whether `MEM_MAP` has a byte address (R72). -/
def State.mapped (s : State) (a : Nat) : Bool := s.memMap.any (fun r => decide (r.lo ≤ a) && decide (a ≤ r.hi))

/-- Whether `MEM_MAP` has every byte of an access (R66). -/
def State.inMap (s : State) (z : Size) (a : Word) : Bool := (accessBytes z a).all s.mapped

/-- Whether an `ABORTS` rule is true of an access. -/
def AbortRule.hits (r : AbortRule) (z : Size) (a : Word) (kind : AccessKind) (privileged : Bool) : Bool :=
  decide (r.lo ≤ a.toNat) && decide (a.toNat ≤ r.hi) && r.size == z && r.kind == kind && r.privileged == privileged

/-- `ABORTS(addr, n, kind, privileged)` (R79). -/
def State.abortsAt (s : State) (z : Size) (a : Word) (kind : AccessKind) (privileged : Bool) : Bool :=
  s.aborts.any (fun r => r.hits z a kind privileged)

/-- The three checks of a data access, in the order of R66 and R67, then the value given. -/
def checked {α : Type} (s : State) (z : Size) (a : Word) (kind : AccessKind) (privileged : Bool) (value : α) :
    Access α :=
  if !z.aligned a then .refused .misalignedAccess
  else if !s.inMap z a then .fault (.outsideMemMap a)
  else if s.abortsAt z a kind privileged then .abort
  else .ok value

/-- `MemRead` (R66). -/
def memRead (s : State) (z : Size) (a : Word) (privileged : Bool) : Access Word :=
  checked s z a .read privileged (s.mem.load z a)

/-- A store that passed its checks: the bytes, and the record that they have been written (R67, R77). -/
def State.stored (s : State) (z : Size) (a v : Word) : State :=
  (s.withMem (s.mem.store z a v)).withWritten (s.written.markAll (accessBytes z a))

/-- `MemWrite` (R67). -/
def memWrite (s : State) (z : Size) (a v : Word) (privileged : Bool) : Access State :=
  checked s z a .write privileged (s.stored z a v)

/-- What follows an access: the run goes on with its value, or `onAbort`, or it ends. -/
def Access.andThen {α : Type} (x : Access α) (onAbort : Result) (k : α → Result) : Result :=
  match x with
  | .ok a => k a
  | .abort => onAbort
  | .fault f => .fault f
  | .refused r => .refused r

/-- A Data Abort (R346) of an instruction whose base register is `rn`, with base value `base` and, when `wb`, the
written-back value `final`: the base register is left as `ABORT_BASE` says (R80). -/
def dataAbort (rn : Reg) (wb : Bool) (base final : Word) (s : State) : Result :=
  raise .dataAbort (if rn = 15#4 then s else s.setReg rn (if wb && Config.abortBaseUpdated then final else base))

/-- The base register written back, when the form writes it back. -/
def State.writeBack (s : State) (wb : Bool) (rn : Reg) (final : Word) : State := if wb then s.setReg rn final else s

/-! ## The front of a step (R27) -/

/-- `fetch(pc)` (R68): abort, then memory map, then modified code. -/
def fetch (s : State) : Access (List Byte) :=
  if s.abortsAt .word s.pc .fetch s.privileged then .abort
  else if !s.inMap .word s.pc then .fault (.outsideMemMap s.pc)
  else if (accessBytes .word s.pc).any s.written.has then .refused .modifiedCode
  else .ok ((accessBytes .word s.pc).map s.mem.get)

/-- The two request lines at this boundary (R43): the next sample, or both 0. -/
def State.sample (s : State) : LineSample := s.lines.headD ⟨false, false⟩

/-- The state after the boundary's sample has been taken. -/
def State.sampled (s : State) : State := s.withLines s.lines.tail

/-- The interrupt to be taken at this boundary, FIQ before IRQ (R347 (a)). -/
def State.interrupt (s : State) : Option Exc :=
  if s.sample.fiq && !Psr.f s.cpsr then some .fiq
  else if s.sample.irq && !Psr.i s.cpsr then some .irq
  else none

/-- Steps 1 to 4 of R27 around the execution `run` of the decoded instruction: interrupts, Thumb state, fetch with its
Prefetch Abort (R345), decode. -/
def stepWith (run : Instr → State → Result) (s : State) : Result :=
  match s.interrupt with
  | some e => raise e s.sampled
  | none =>
    if Psr.t s.cpsr then .refused .thumbState
    else
      (fetch s.sampled).andThen (raise .prefetchAbort s.sampled) fun bytes =>
        match decodeBytes bytes with
        | .ok (i, _) => run i s.sampled
        | .error e => .refused (.undecodable e)

/-- A word loaded into memory from outside the machine at R15 (R72, R392): its bytes are not stores of the program. -/
def State.loadAtPc (s : State) (w : Word) : State :=
  (s.withMem (s.mem.store .word s.pc w)).withWritten
    ((((s.written.unmark (byteAddr s.pc 0)).unmark (byteAddr s.pc 1)).unmark (byteAddr s.pc 2)).unmark
      (byteAddr s.pc 3))

end Sys2Proof.Machine
end

