-- ==== Sys2Proof/Machine/Operands.lean ====
section
/-!
DEFINITION. Operands.lean: the operand forms of the card: Operand 2 (spec/30_encoding.md R93 to R99, R117), addressing
modes 2 and 3 (spec/45_load_store.md R241 to R245), 4 (spec/46_load_store_multiple.md R280) and 5
(spec/48_coprocessor.md R322), with what the shared frames of the instructions need to know of them.
-/

namespace Sys2Proof.Machine

/-! ## Operand 2 -/

/-- `<immed_8r>`: an 8-bit value rotated right by an even number of bits (R117). -/
def rotatedImm (rot : BitVec 4) (imm : BitVec 8) : Word := (imm.setWidth 32).rotateRight (2 * rot.toNat)

/-- The immediate form of Operand 2 (R94): value and carry-out. -/
def immOperand (rot : BitVec 4) (imm : BitVec 8) (cin : Bool) : Word × Bool :=
  let value := rotatedImm rot imm
  (value, if rot = 0#4 then cin else value.getLsbD 31)

/-- A register shifted by an immediate field (R95 to R97): value and carry-out. A field of 0 means no shift for LSL, 32
for LSR and ASR, and RRX for ROR. -/
def shiftByImm (sh : ShiftKind) (amt : BitVec 5) (x : Word) (cin : Bool) : Word × Bool :=
  let n := amt.toNat
  match sh with
  | .lsl => if n = 0 then (x, cin) else (x <<< n, x.getLsbD (32 - n))
  | .lsr => if n = 0 then (0x00000000#32, x.getLsbD 31) else (x >>> n, x.getLsbD (n - 1))
  | .asr => if n = 0 then (x.sshiftRight 32, x.getLsbD 31) else (x.sshiftRight n, x.getLsbD (n - 1))
  | .ror =>
    if n = 0 then (BitVec.ofBool cin ++ x.extractLsb' 1 31, x.getLsbD 0) else (x.rotateRight n, x.getLsbD (n - 1))

/-- A register shifted by the low byte `n` of a register (R98): value and carry-out. -/
def shiftByReg (sh : ShiftKind) (n : Nat) (x : Word) (cin : Bool) : Word × Bool :=
  if n = 0 then (x, cin)
  else
    match sh with
    | .lsl =>
      if n < 32 then (x <<< n, x.getLsbD (32 - n))
      else if n = 32 then (0x00000000#32, x.getLsbD 0)
      else (0x00000000#32, false)
    | .lsr =>
      if n < 32 then (x >>> n, x.getLsbD (n - 1))
      else if n = 32 then (0x00000000#32, x.getLsbD 31)
      else (0x00000000#32, false)
    | .asr => if n < 32 then (x.sshiftRight n, x.getLsbD (n - 1)) else (x.sshiftRight 32, x.getLsbD 31)
    | .ror => if n % 32 = 0 then (x, x.getLsbD 31) else (x.rotateRight (n % 32), x.getLsbD (n % 32 - 1))

/-- The value and the carry-out of an Operand 2, from the registers and the C flag as they are (R93). -/
def operand2Eval (o : Operand2) (s : State) : Word × Bool :=
  match o with
  | .imm rot imm => immOperand rot imm (Psr.c s.cpsr)
  | .shift amt sh rm => shiftByImm sh amt (s.reg rm) (Psr.c s.cpsr)
  | .reg rs sh rm => shiftByReg sh ((s.reg rs).extractLsb' 0 8).toNat (s.reg rm) (Psr.c s.cpsr)

/-- The registers that an Operand 2 names. -/
def operand2Regs (o : Operand2) : List Reg :=
  match o with
  | .imm _ _ => []
  | .shift _ _ rm => [rm]
  | .reg rs _ rm => [rs, rm]

/-- Whether an Operand 2 is a register-shift form, in which no operand may be R15 (R99). -/
def operand2IsRegShift (o : Operand2) : Bool :=
  match o with
  | .imm _ _ => false
  | .shift _ _ _ => false
  | .reg _ _ _ => true

/-! ## Addressing modes 2 and 3 -/

/-- The offset of a single transfer (R241 to R245); a register offset is an Operand 2 value whose carry is dropped. -/
def offsetValue (o : Offset) (s : State) : Word :=
  match o with
  | .imm v => v
  | .reg amt sh rm => (shiftByImm sh amt (s.reg rm) (Psr.c s.cpsr)).1

/-- The register that an offset names. -/
def offsetReg (o : Offset) : Option Reg :=
  match o with
  | .imm _ => none
  | .reg _ _ rm => some rm

/-- The unshifted register offset of addressing mode 3 (R244, R245). -/
def plainReg (rm : Reg) : Offset := .reg 0#5 .lsl rm

/-- The base plus or minus the offset, modulo 2^32: added when U = 1 (R240). -/
def indexed (u : Bool) (base offset : Word) : Word := if u then base + offset else base - offset

/-- The address of a transfer: the base when the form is post-indexed, else the index (R240). -/
def transferAddress (ix : IndexMode) (base index : Word) : Word :=
  match ix with
  | .offset => index
  | .pre => index
  | .post => base

/-- Whether the form writes the base back (R240). -/
def writesBack (ix : IndexMode) : Bool :=
  match ix with
  | .offset => false
  | .pre => true
  | .post => true

/-- The index mode of an addressing mode 3 form with P = 1 (R244): `!` is W. -/
def preMode (w : Bool) : IndexMode := if w then .pre else .offset

/-! ## Addressing mode 4 -/

/-- The registers of a list, by ascending number (R280). -/
def listRegs {n : Nat} (list : BitVec n) : List Reg :=
  ((List.range n).filter fun k => list.getLsbD k).map (BitVec.ofNat 4)

/-- `4k` for the `k` registers of a block (R280). -/
def blockBytes (k : Nat) : Word := BitVec.ofNat 32 (4 * k)

/-- The lowest address of a block (R280). -/
def blockStart (am : BlockMode) (base : Word) (k : Nat) : Word :=
  match am with
  | .ia => base
  | .ib => base + 4#32
  | .da => base - blockBytes k + 4#32
  | .db => base - blockBytes k

/-- The value that `!` writes back (R280). -/
def blockFinal (am : BlockMode) (base : Word) (k : Nat) : Word :=
  match am with
  | .ia => base + blockBytes k
  | .ib => base + blockBytes k
  | .da => base - blockBytes k
  | .db => base - blockBytes k

/-! ## Addressing mode 5 -/

/-- The byte offset of addressing mode 5, `offset_8 * 4` (R118, R322). -/
def cpOffset (off : BitVec 8) : Word := off.setWidth 32 <<< 2

/-! ## Halves of a register -/

/-- `h16(v, z)` (R187): the top half (T, true) or the bottom half (B, false) of a word, as a signed integer. -/
def signedHalf (v : Word) (top : Bool) : Int := if top then (v.extractLsb' 16 16).toInt else (v.extractLsb' 0 16).toInt

end Sys2Proof.Machine
end

