-- ==== Sys2Proof/Machine/DataProcessing.lean ====
section
/-!
DEFINITION. DataProcessing.lean: the frame that the sixteen data-processing instructions share (spec/40_move_psr.md
R144), with its exception-return form (R145) and the restriction of R99.
-/

namespace Sys2Proof.Machine

/-- The operation of a data-processing instruction: from the first operand, Operand 2, the shifter carry-out and the
CPSR, the result and the values for C and V (R144). -/
abbrev AluOp := Word → Word → Bool → Word → Alu

/-- An operation of class logical: C is the shifter carry-out, V unchanged (R144). -/
def logicalOp (f : Word → Word → Word) : AluOp := fun a op2 carry p => { result := f a op2, c := carry, v := Psr.v p }

/-- An operation of class arithmetic, which reads the C flag (R144, R161). -/
def arithmeticOp (f : Word → Word → Bool → Alu) : AluOp := fun a op2 _ p => f a op2 (Psr.c p)

/-- The first operand: none for MOV and MVN, which do not read Rn (R144). -/
def firstOperand (rn : Option Reg) (s : State) : Word :=
  match rn with
  | none => 0x00000000#32
  | some r => s.reg r

/-- The result of a data-processing instruction, from the state before it writes anything (R93, R144). -/
def aluResult (op : AluOp) (rn : Option Reg) (o : Operand2) (s : State) : Alu :=
  op (firstOperand rn s) (operand2Eval o s).1 (operand2Eval o s).2 s.cpsr

/-- The CPSR with the flags of a result (R144). -/
def aluFlags (s : State) (r : Alu) : Word := Psr.setNZCV s.cpsr r.result r.c r.v

/-- Whether a register-shift form names R15 (R99). -/
def namesPc (named : List Reg) (o : Operand2) : Bool := operand2IsRegShift o && named.contains 15#4

/-- What a data-processing instruction with a destination does with its result (R144, R145, R26). -/
def writeResult (sf : Bool) (rd : Reg) (r : Alu) (s : State) : Result :=
  if rd = 15#4 then (if sf then returnTo r.result s else branchTo r.result s)
  else advance ((if sf then s.withCpsr (aluFlags s r) else s).setReg rd r.result)

/-- A data-processing instruction with a destination (R144). -/
def dataProcessing (op : AluOp) (c : Cond) (sf : Bool) (rd : Reg) (rn : Option Reg) (o : Operand2) (s : State) :
    Result :=
  conditional c (rd :: rn.toList ++ operand2Regs o) s fun s =>
    if namesPc (rd :: rn.toList ++ operand2Regs o) o then .refused .pcOperand
    else writeResult sf rd (aluResult op rn o s) s

/-- TST, TEQ, CMP and CMN: no destination, the flags always set (R144). -/
def compare (op : AluOp) (c : Cond) (rn : Reg) (o : Operand2) (s : State) : Result :=
  conditional c (rn :: operand2Regs o) s fun s =>
    if namesPc (rn :: operand2Regs o) o then .refused .pcOperand
    else advance (s.withCpsr (aluFlags s (aluResult op (some rn) o s)))

/-- The frame of the instructions that take general registers only and no Operand 2: R15 may not be named (R142, R168,
R180, R192), nor, when `clash` holds, may the registers coincide (R180). -/
def registersOnly (c : Cond) (named : List Reg) (clash : Bool) (s : State) (effect : State → State) : Result :=
  conditional c named s fun s =>
    if named.contains 15#4 then .refused .pcOperand
    else if clash then .refused .sameRegister
    else advance (effect s)

end Sys2Proof.Machine
end

