-- ==== Sys2Proof/Machine/Arithmetic.lean ====
section
/-!
DEFINITION. Arithmetic.lean: ADD, ADC, SUB, SBC, RSB, RSC and the saturating QADD, QDADD, QSUB, QDSUB
(spec/41_arithmetic.md).
-/

namespace Sys2Proof.Machine

/-- ADD (R161): `Rn + Oprnd2`. -/
def addOp : AluOp := arithmeticOp fun a b _ => addWithCarry a b false

/-- `ADD{cond}{S} Rd, Rn, <Oprnd2>` (R162), Operand 2 a rotated immediate. -/
def execAddImm (c : Cond) (sf : Bool) (rn rd : Reg) (rot : BitVec 4) (imm : BitVec 8) (s : State) : Result :=
  dataProcessing addOp c sf rd (some rn) (.imm rot imm) s

/-- `ADD{cond}{S} Rd, Rn, <Oprnd2>` (R162), Operand 2 a register shifted by an immediate. -/
def execAddShift (c : Cond) (sf : Bool) (rn rd : Reg) (amt : BitVec 5) (sh : ShiftKind) (rm : Reg) (s : State) : Result :=
  dataProcessing addOp c sf rd (some rn) (.shift amt sh rm) s

/-- `ADD{cond}{S} Rd, Rn, <Oprnd2>` (R162), Operand 2 a register shifted by a register. -/
def execAddReg (c : Cond) (sf : Bool) (rn rd rs : Reg) (sh : ShiftKind) (rm : Reg) (s : State) : Result :=
  dataProcessing addOp c sf rd (some rn) (.reg rs sh rm) s

/-- ADC (R161): `Rn + Oprnd2 + Carry`. -/
def adcOp : AluOp := arithmeticOp fun a b cin => addWithCarry a b cin

/-- `ADC{cond}{S} Rd, Rn, <Oprnd2>` (R163), Operand 2 a rotated immediate. -/
def execAdcImm (c : Cond) (sf : Bool) (rn rd : Reg) (rot : BitVec 4) (imm : BitVec 8) (s : State) : Result :=
  dataProcessing adcOp c sf rd (some rn) (.imm rot imm) s

/-- `ADC{cond}{S} Rd, Rn, <Oprnd2>` (R163), Operand 2 a register shifted by an immediate. -/
def execAdcShift (c : Cond) (sf : Bool) (rn rd : Reg) (amt : BitVec 5) (sh : ShiftKind) (rm : Reg) (s : State) : Result :=
  dataProcessing adcOp c sf rd (some rn) (.shift amt sh rm) s

/-- `ADC{cond}{S} Rd, Rn, <Oprnd2>` (R163), Operand 2 a register shifted by a register. -/
def execAdcReg (c : Cond) (sf : Bool) (rn rd rs : Reg) (sh : ShiftKind) (rm : Reg) (s : State) : Result :=
  dataProcessing adcOp c sf rd (some rn) (.reg rs sh rm) s

/-- SUB (R161): `Rn - Oprnd2`. -/
def subOp : AluOp := arithmeticOp fun a b _ => addWithCarry a (~~~b) true

/-- `SUB{cond}{S} Rd, Rn, <Oprnd2>` (R164), Operand 2 a rotated immediate. -/
def execSubImm (c : Cond) (sf : Bool) (rn rd : Reg) (rot : BitVec 4) (imm : BitVec 8) (s : State) : Result :=
  dataProcessing subOp c sf rd (some rn) (.imm rot imm) s

/-- `SUB{cond}{S} Rd, Rn, <Oprnd2>` (R164), Operand 2 a register shifted by an immediate. -/
def execSubShift (c : Cond) (sf : Bool) (rn rd : Reg) (amt : BitVec 5) (sh : ShiftKind) (rm : Reg) (s : State) : Result :=
  dataProcessing subOp c sf rd (some rn) (.shift amt sh rm) s

/-- `SUB{cond}{S} Rd, Rn, <Oprnd2>` (R164), Operand 2 a register shifted by a register. -/
def execSubReg (c : Cond) (sf : Bool) (rn rd rs : Reg) (sh : ShiftKind) (rm : Reg) (s : State) : Result :=
  dataProcessing subOp c sf rd (some rn) (.reg rs sh rm) s

/-- SBC (R161): `Rn - Oprnd2 - NOT(Carry)`. -/
def sbcOp : AluOp := arithmeticOp fun a b cin => addWithCarry a (~~~b) cin

/-- `SBC{cond}{S} Rd, Rn, <Oprnd2>` (R165), Operand 2 a rotated immediate. -/
def execSbcImm (c : Cond) (sf : Bool) (rn rd : Reg) (rot : BitVec 4) (imm : BitVec 8) (s : State) : Result :=
  dataProcessing sbcOp c sf rd (some rn) (.imm rot imm) s

/-- `SBC{cond}{S} Rd, Rn, <Oprnd2>` (R165), Operand 2 a register shifted by an immediate. -/
def execSbcShift (c : Cond) (sf : Bool) (rn rd : Reg) (amt : BitVec 5) (sh : ShiftKind) (rm : Reg) (s : State) : Result :=
  dataProcessing sbcOp c sf rd (some rn) (.shift amt sh rm) s

/-- `SBC{cond}{S} Rd, Rn, <Oprnd2>` (R165), Operand 2 a register shifted by a register. -/
def execSbcReg (c : Cond) (sf : Bool) (rn rd rs : Reg) (sh : ShiftKind) (rm : Reg) (s : State) : Result :=
  dataProcessing sbcOp c sf rd (some rn) (.reg rs sh rm) s

/-- RSB (R161): `Oprnd2 - Rn`. -/
def rsbOp : AluOp := arithmeticOp fun a b _ => addWithCarry b (~~~a) true

/-- `RSB{cond}{S} Rd, Rn, <Oprnd2>` (R166), Operand 2 a rotated immediate. -/
def execRsbImm (c : Cond) (sf : Bool) (rn rd : Reg) (rot : BitVec 4) (imm : BitVec 8) (s : State) : Result :=
  dataProcessing rsbOp c sf rd (some rn) (.imm rot imm) s

/-- `RSB{cond}{S} Rd, Rn, <Oprnd2>` (R166), Operand 2 a register shifted by an immediate. -/
def execRsbShift (c : Cond) (sf : Bool) (rn rd : Reg) (amt : BitVec 5) (sh : ShiftKind) (rm : Reg) (s : State) : Result :=
  dataProcessing rsbOp c sf rd (some rn) (.shift amt sh rm) s

/-- `RSB{cond}{S} Rd, Rn, <Oprnd2>` (R166), Operand 2 a register shifted by a register. -/
def execRsbReg (c : Cond) (sf : Bool) (rn rd rs : Reg) (sh : ShiftKind) (rm : Reg) (s : State) : Result :=
  dataProcessing rsbOp c sf rd (some rn) (.reg rs sh rm) s

/-- RSC (R161): `Oprnd2 - Rn - NOT(Carry)`. -/
def rscOp : AluOp := arithmeticOp fun a b cin => addWithCarry b (~~~a) cin

/-- `RSC{cond}{S} Rd, Rn, <Oprnd2>` (R167), Operand 2 a rotated immediate. -/
def execRscImm (c : Cond) (sf : Bool) (rn rd : Reg) (rot : BitVec 4) (imm : BitVec 8) (s : State) : Result :=
  dataProcessing rscOp c sf rd (some rn) (.imm rot imm) s

/-- `RSC{cond}{S} Rd, Rn, <Oprnd2>` (R167), Operand 2 a register shifted by an immediate. -/
def execRscShift (c : Cond) (sf : Bool) (rn rd : Reg) (amt : BitVec 5) (sh : ShiftKind) (rm : Reg) (s : State) : Result :=
  dataProcessing rscOp c sf rd (some rn) (.shift amt sh rm) s

/-- `RSC{cond}{S} Rd, Rn, <Oprnd2>` (R167), Operand 2 a register shifted by a register. -/
def execRscReg (c : Cond) (sf : Bool) (rn rd rs : Reg) (sh : ShiftKind) (rm : Reg) (s : State) : Result :=
  dataProcessing rscOp c sf rd (some rn) (.reg rs sh rm) s

/-- The doubling of QDADD and QDSUB, `2 * sint(x)` before saturation (R169, R171). -/
def doubled (x : Word) : Int := 2 * x.toInt

/-- A saturating instruction: the result saturated, Q set when `overflowed` (R160, R168); N, Z, C, V unchanged. -/
def writeSaturated (rd : Reg) (x : Int) (overflowed : Bool) (s : State) : State :=
  (s.withCpsr (Psr.stickyQ s.cpsr overflowed)).setReg rd (sat x)

/-- `QADD{cond} Rd, Rm, Rn` (R168): SAT(Rm + Rn). -/
def execQadd (c : Cond) (rn rd rm : Reg) (s : State) : Result :=
  registersOnly c [rd, rm, rn] false s fun s =>
    let x := (s.reg rm).toInt + (s.reg rn).toInt
    writeSaturated rd x (!fitsSigned x) s

/-- `QSUB{cond} Rd, Rm, Rn` (R170): SAT(Rm - Rn). -/
def execQsub (c : Cond) (rn rd rm : Reg) (s : State) : Result :=
  registersOnly c [rd, rm, rn] false s fun s =>
    let x := (s.reg rm).toInt - (s.reg rn).toInt
    writeSaturated rd x (!fitsSigned x) s

/-- `QDADD{cond} Rd, Rm, Rn` (R169): SAT(Rm + SAT(Rn * 2)); either SAT sets Q. -/
def execQdadd (c : Cond) (rn rd rm : Reg) (s : State) : Result :=
  registersOnly c [rd, rm, rn] false s fun s =>
    let x := (s.reg rm).toInt + (sat (doubled (s.reg rn))).toInt
    writeSaturated rd x (!fitsSigned (doubled (s.reg rn)) || !fitsSigned x) s

/-- `QDSUB{cond} Rd, Rm, Rn` (R171): SAT(Rm - SAT(Rn * 2)); either SAT sets Q. -/
def execQdsub (c : Cond) (rn rd rm : Reg) (s : State) : Result :=
  registersOnly c [rd, rm, rn] false s fun s =>
    let x := (s.reg rm).toInt - (sat (doubled (s.reg rn))).toInt
    writeSaturated rd x (!fitsSigned (doubled (s.reg rn)) || !fitsSigned x) s

end Sys2Proof.Machine
end

