-- ==== Sys2Proof/Machine/Branch.lean ====
section
/-!
DEFINITION. Branch.lean: B, BL, BX, BLX label and BLX Rm (spec/44_branch.md).
-/

namespace Sys2Proof.Machine

/-- `pc + 8 + (sext_32(signed_immed_24) << 2)` (R108, R220). -/
def branchTarget (pc : Word) (imm : BitVec 24) : Word := pc + 8#32 + (imm.signExtend 32 <<< 2)

/-- The return address of BL and BLX: the instruction that follows (R221, R226). -/
def linked (s : State) : State := s.setReg 14#4 (s.pc + 4#32)

/-- `B{cond} label` (R220). -/
def execB (c : Cond) (imm : BitVec 24) (s : State) : Result :=
  conditional c [] s fun s => branchTo (branchTarget s.pc imm) s

/-- `BL{cond} label` (R221): R14 of the current mode is the link. -/
def execBl (c : Cond) (imm : BitVec 24) (s : State) : Result :=
  conditional c [14#4] s fun s => branchTo (branchTarget s.pc imm) (linked s)

/-- `BX{cond} Rm` (R222): bit 0 of Rm becomes T. -/
def execBx (c : Cond) (rm : Reg) (s : State) : Result := conditional c [rm] s fun s => branchExchange (s.reg rm) s

/-- `BLX label` (R223): always executed, enters Thumb state. -/
def execBlxLabel (h : Bool) (imm : BitVec 24) (s : State) : Result :=
  always [14#4] s fun s =>
    .next (((linked s).withCpsr (Psr.withT s.cpsr true)).withPc (branchTarget s.pc imm + if h then 2#32 else 0#32))

/-- `BLX{cond} Rm` (R224): Rm is read before R14 is written. -/
def execBlxReg (c : Cond) (rm : Reg) (s : State) : Result :=
  conditional c [rm, 14#4] s fun s =>
    if rm = 15#4 then .refused .pcOperand else branchExchange (s.reg rm) (linked s)

end Sys2Proof.Machine
end

