-- ==== Sys2Proof/Machine/Block.lean ====
section
/-!
DEFINITION. Block.lean: the transfer of several words, one after another in ascending address order
(spec/20_memory.md R80, spec/46_load_store_multiple.md R280), shared by LDM, STM, LDC and STC.
-/

namespace Sys2Proof.Machine

/-- Reads one word for each register, from address `a` upward: the values read before the first access that did not
succeed, and how the block ended (R80, R282). -/
def loadBlock (s : State) : Word → List Reg → List (Reg × Word) × Access Unit
  | _, [] => ([], .ok ())
  | a, r :: rest =>
    match memRead s .word a s.privileged with
    | .ok v => ((r, v) :: (loadBlock s (a + 4#32) rest).1, (loadBlock s (a + 4#32) rest).2)
    | .abort => ([], .abort)
    | .fault f => ([], .fault f)
    | .refused e => ([], .refused e)

/-- Writes words from address `a` upward: the state after the accesses before the first that did not succeed, and how the
block ended (R80, R286). -/
def storeBlock : State → Word → List Word → State × Access Unit
  | s, _, [] => (s, .ok ())
  | s, a, v :: rest =>
    match memWrite s .word a v s.privileged with
    | .ok s' => storeBlock s' (a + 4#32) rest
    | .abort => (s, .abort)
    | .fault f => (s, .fault f)
    | .refused e => (s, .refused e)

end Sys2Proof.Machine
end

