-- ==== Sys2Proof/Machine/Coprocessor.lean ====
section
/-!
DEFINITION. Coprocessor.lean: CDP, MRC, MCR, LDC, STC and their unconditional forms (spec/48_coprocessor.md): the
processor's part of R310, over the coprocessor functions of Config. With no coprocessor present, as at reset, every one of
them takes the Undefined Instruction exception (R311).
-/

namespace Sys2Proof.Machine

/-- `S_p`, the state of a coprocessor (R310). -/
def State.cp (s : State) (p : BitVec 4) : Nat := s.cpState[p.toNat]'p.isLt

/-- Another state for a coprocessor. -/
def State.setCp (s : State) (p : BitVec 4) (st : Nat) : State := s.withCpState (s.cpState.set p.toNat st p.isLt)

/-- Whether a coprocessor is present and accepts the instruction (R310, R311). -/
def State.cpTakes (s : State) (p : BitVec 4) (bits : Word) : Bool :=
  s.coprocs[p.toNat]'p.isLt && Config.cpAccepts p bits (s.cp p) s.privileged

/-- A coprocessor instruction: conditional, or one of the `...2` forms when `c` is none (R115). When no coprocessor takes
it, Undefined Instruction and nothing else (R311). -/
def cpInstr (c : Option Cond) (named : List Reg) (p : BitVec 4) (bits : Word) (s : State) (body : State → Result) :
    Result :=
  match c with
  | some c => conditional c named s fun s => if s.cpTakes p bits then body s else raise .undefined s
  | none => always named s fun s => if s.cpTakes p bits then body s else raise .undefined s

/-- CDP and CDP2 (R312). -/
def cpData (c : Option Cond) (p : BitVec 4) (bits : Word) (s : State) : Result :=
  cpInstr c [] p bits s fun s => advance (s.setCp p (Config.cpCdp p bits (s.cp p)))

/-- MRC and MRC2 (R314): with Rd = R15 the top four bits go to the flags. -/
def cpToArm (c : Option Cond) (rd : Reg) (p : BitVec 4) (bits : Word) (s : State) : Result :=
  cpInstr c [rd] p bits s fun s =>
    if rd = 15#4 then
      advance ((s.setCp p (Config.cpMrc p bits (s.cp p)).2).withCpsr
        (Psr.setTopFour s.cpsr (Config.cpMrc p bits (s.cp p)).1))
    else advance ((s.setCp p (Config.cpMrc p bits (s.cp p)).2).setReg rd (Config.cpMrc p bits (s.cp p)).1)

/-- MCR and MCR2 (R316): Rd = R15 is refused when the coprocessor is present. -/
def cpFromArm (c : Option Cond) (rd : Reg) (p : BitVec 4) (bits : Word) (s : State) : Result :=
  cpInstr c [rd] p bits s fun s =>
    if rd = 15#4 then .refused .pcOperand
    else advance (s.setCp p (Config.cpMcr p bits (s.reg rd) (s.cp p)))

/-- The words of an LDC, number `j` first, `n` of them from address `a` upward (R318, R80). -/
def ldcWords (p : BitVec 4) (bits : Word) : State → Nat → Word → Nat → State × Access Unit
  | s, _, _, 0 => (s, .ok ())
  | s, j, a, n + 1 =>
    match memRead s .word a s.privileged with
    | .ok w => ldcWords p bits (s.setCp p (Config.cpLdcWord p bits j w (s.cp p))) (j + 1) (a + 4#32) n
    | .abort => (s, .abort)
    | .fault f => (s, .fault f)
    | .refused e => (s, .refused e)

/-- The words of an STC: supplied by the coprocessor, whose state then changes, and stored (R320). -/
def stcWords (p : BitVec 4) (bits : Word) (a : Word) (s : State) : State × Access Unit :=
  storeBlock (s.setCp p (Config.cpStcState p bits (s.cp p))) a
    ((List.range ((Config.cpStcCount p bits (s.cp p)).val + 1)).map fun j => Config.cpStcWord p bits j (s.cp p))

/-- The words of an LDC or STC from the start address (R322). -/
def cpWords (load : Bool) (p : BitVec 4) (bits : Word) (a : Word) (s : State) : State × Access Unit :=
  if load then ldcWords p bits s 0 a ((Config.cpLdcCount p bits (s.cp p)).val + 1) else stcWords p bits a s

/-- LDC, STC and their `...2` forms (R318, R320) with addressing mode 5 (R322); the unindexed form is an offset of 0. -/
def cpTransfer (load : Bool) (c : Option Cond) (ix : IndexMode) (u : Bool) (rn : Reg) (offset : Word) (p : BitVec 4)
    (bits : Word) (s : State) : Result :=
  cpInstr c [rn] p bits s fun s =>
    if writesBack ix && rn == 15#4 then .refused .writebackConflict
    else
      match cpWords load p bits (transferAddress ix (s.reg rn) (indexed u (s.reg rn) offset)) s with
      | (s', .ok _) => advance (s'.writeBack (writesBack ix) rn (indexed u (s.reg rn) offset))
      | (s', .abort) => dataAbort rn (writesBack ix) (s.reg rn) (indexed u (s.reg rn) offset) s'
      | (_, .fault f) => .fault f
      | (_, .refused e) => .refused e

/-- `CDP{cond} p<cpnum>, <op1>, CRd, CRn, CRm, <op2>` (R312). -/
def execCdp (c : Cond) (op1 crn crd cp : BitVec 4) (op2 : BitVec 3) (crm : BitVec 4) (s : State) : Result :=
  cpData (some c) cp (encode (.cdp c op1 crn crd cp op2 crm)) s

/-- `MRC{cond} p<cpnum>, <op1>, Rd, CRn, CRm, <op2>` (R314). -/
def execMrc (c : Cond) (op1 : BitVec 3) (crn : BitVec 4) (rd : Reg) (cp : BitVec 4) (op2 : BitVec 3) (crm : BitVec 4) (s : State) : Result :=
  cpToArm (some c) rd cp (encode (.mrc c op1 crn rd cp op2 crm)) s

/-- `MCR{cond} p<cpnum>, <op1>, Rd, CRn, CRm, <op2>` (R316). -/
def execMcr (c : Cond) (op1 : BitVec 3) (crn : BitVec 4) (rd : Reg) (cp : BitVec 4) (op2 : BitVec 3) (crm : BitVec 4) (s : State) : Result :=
  cpFromArm (some c) rd cp (encode (.mcr c op1 crn rd cp op2 crm)) s

/-- `LDC{cond} p<cpnum>, CRd, <a_mode5>` (R318), offset or pre-indexed. -/
def execLdcOff (c : Cond) (u n w : Bool) (rn : Reg) (crd cp : BitVec 4) (off : BitVec 8) (s : State) : Result :=
  cpTransfer true (some c) (preMode w) u rn (cpOffset off) cp (encode (.ldcOff c u n w rn crd cp off)) s

/-- `LDC{cond} p<cpnum>, CRd, <a_mode5>` (R318), post-indexed. -/
def execLdcPost (c : Cond) (u n : Bool) (rn : Reg) (crd cp : BitVec 4) (off : BitVec 8) (s : State) : Result :=
  cpTransfer true (some c) .post u rn (cpOffset off) cp (encode (.ldcPost c u n rn crd cp off)) s

/-- `LDC{cond} p<cpnum>, CRd, <a_mode5>` (R318), unindexed: `off` is the option, which only the coprocessor reads. -/
def execLdcUnidx (c : Cond) (n : Bool) (rn : Reg) (crd cp : BitVec 4) (off : BitVec 8) (s : State) : Result :=
  cpTransfer true (some c) .offset true rn 0x00000000#32 cp (encode (.ldcUnidx c n rn crd cp off)) s

/-- `STC{cond} p<cpnum>, CRd, <a_mode5>` (R320), offset or pre-indexed. -/
def execStcOff (c : Cond) (u n w : Bool) (rn : Reg) (crd cp : BitVec 4) (off : BitVec 8) (s : State) : Result :=
  cpTransfer false (some c) (preMode w) u rn (cpOffset off) cp (encode (.stcOff c u n w rn crd cp off)) s

/-- `STC{cond} p<cpnum>, CRd, <a_mode5>` (R320), post-indexed. -/
def execStcPost (c : Cond) (u n : Bool) (rn : Reg) (crd cp : BitVec 4) (off : BitVec 8) (s : State) : Result :=
  cpTransfer false (some c) .post u rn (cpOffset off) cp (encode (.stcPost c u n rn crd cp off)) s

/-- `STC{cond} p<cpnum>, CRd, <a_mode5>` (R320), unindexed: `off` is the option, which only the coprocessor reads. -/
def execStcUnidx (c : Cond) (n : Bool) (rn : Reg) (crd cp : BitVec 4) (off : BitVec 8) (s : State) : Result :=
  cpTransfer false (some c) .offset true rn 0x00000000#32 cp (encode (.stcUnidx c n rn crd cp off)) s

/-- `CDP2 p<cpnum>, <op1>, CRd, CRn, CRm, <op2>` (R313). -/
def execCdp2 (op1 crn crd cp : BitVec 4) (op2 : BitVec 3) (crm : BitVec 4) (s : State) : Result :=
  cpData none cp (encode (.cdp2 op1 crn crd cp op2 crm)) s

/-- `MRC2 p<cpnum>, <op1>, Rd, CRn, CRm, <op2>` (R315). -/
def execMrc2 (op1 : BitVec 3) (crn : BitVec 4) (rd : Reg) (cp : BitVec 4) (op2 : BitVec 3) (crm : BitVec 4) (s : State) : Result :=
  cpToArm none rd cp (encode (.mrc2 op1 crn rd cp op2 crm)) s

/-- `MCR2 p<cpnum>, <op1>, Rd, CRn, CRm, <op2>` (R317). -/
def execMcr2 (op1 : BitVec 3) (crn : BitVec 4) (rd : Reg) (cp : BitVec 4) (op2 : BitVec 3) (crm : BitVec 4) (s : State) : Result :=
  cpFromArm none rd cp (encode (.mcr2 op1 crn rd cp op2 crm)) s

/-- `LDC2 p<cpnum>, CRd, <a_mode5>` (R319), offset or pre-indexed. -/
def execLdc2Off (u n w : Bool) (rn : Reg) (crd cp : BitVec 4) (off : BitVec 8) (s : State) : Result :=
  cpTransfer true none (preMode w) u rn (cpOffset off) cp (encode (.ldc2Off u n w rn crd cp off)) s

/-- `LDC2 p<cpnum>, CRd, <a_mode5>` (R319), post-indexed. -/
def execLdc2Post (u n : Bool) (rn : Reg) (crd cp : BitVec 4) (off : BitVec 8) (s : State) : Result :=
  cpTransfer true none .post u rn (cpOffset off) cp (encode (.ldc2Post u n rn crd cp off)) s

/-- `LDC2 p<cpnum>, CRd, <a_mode5>` (R319), unindexed: `off` is the option, which only the coprocessor reads. -/
def execLdc2Unidx (n : Bool) (rn : Reg) (crd cp : BitVec 4) (off : BitVec 8) (s : State) : Result :=
  cpTransfer true none .offset true rn 0x00000000#32 cp (encode (.ldc2Unidx n rn crd cp off)) s

/-- `STC2 p<cpnum>, CRd, <a_mode5>` (R321), offset or pre-indexed. -/
def execStc2Off (u n w : Bool) (rn : Reg) (crd cp : BitVec 4) (off : BitVec 8) (s : State) : Result :=
  cpTransfer false none (preMode w) u rn (cpOffset off) cp (encode (.stc2Off u n w rn crd cp off)) s

/-- `STC2 p<cpnum>, CRd, <a_mode5>` (R321), post-indexed. -/
def execStc2Post (u n : Bool) (rn : Reg) (crd cp : BitVec 4) (off : BitVec 8) (s : State) : Result :=
  cpTransfer false none .post u rn (cpOffset off) cp (encode (.stc2Post u n rn crd cp off)) s

/-- `STC2 p<cpnum>, CRd, <a_mode5>` (R321), unindexed: `off` is the option, which only the coprocessor reads. -/
def execStc2Unidx (n : Bool) (rn : Reg) (crd cp : BitVec 4) (off : BitVec 8) (s : State) : Result :=
  cpTransfer false none .offset true rn 0x00000000#32 cp (encode (.stc2Unidx n rn crd cp off)) s

end Sys2Proof.Machine
end

