-- ==== Sys2Proof/Machine/Exceptional.lean ====
section
/-!
DEFINITION. Exceptional.lean: SWI, BKPT (spec/49_swi_bkpt.md) and the two undefined patterns (spec/30_encoding.md R113).
-/

namespace Sys2Proof.Machine

/-- `SWI{cond} <immed_24>` (R330): the 24-bit value is not read. -/
def execSwi (c : Cond) (_imm : BitVec 24) (s : State) : Result := conditional c [] s fun s => raise .swi s

/-- `BKPT <immed_16>` (R331, D17): always a Prefetch Abort. -/
def execBkpt (_imm : BitVec 16) (s : State) : Result := always [] s fun s => raise .prefetchAbort s

/-- The undefined pattern (a) of R113. -/
def execUndefReg (c : Cond) (_hi : BitVec 20) (_lo : BitVec 4) (s : State) : Result :=
  conditional c [] s fun s => raise .undefined s

/-- The undefined pattern (b) of R113. -/
def execUndefImm (c : Cond) (_b22 : Bool) (_lo : BitVec 20) (s : State) : Result :=
  conditional c [] s fun s => raise .undefined s

end Sys2Proof.Machine
end

