-- ==== Sys2Proof/Machine/LoadStore.lean ====
section
/-!
DEFINITION. LoadStore.lean: the single-register loads and stores (spec/45_load_store.md).
-/

namespace Sys2Proof.Machine

/-- The single transfers (R69), the T forms (R247) and LDR to R15 (R252) among them. -/
inductive SingleOp where
  | ldr | ldrt | ldrPc | ldrb | ldrbt | ldrsb | ldrh | ldrsh | str | strt | strb | strbt | strh
deriving DecidableEq, Repr

/-- Whether the transfer is a load (R69). -/
def SingleOp.isLoad (op : SingleOp) : Bool :=
  match op with
  | .ldr | .ldrt | .ldrPc | .ldrb | .ldrbt | .ldrsb | .ldrh | .ldrsh => true
  | .str | .strt | .strb | .strbt | .strh => false

/-- The size of the transfer (R69). -/
def SingleOp.size (op : SingleOp) : Size :=
  match op with
  | .ldr | .ldrt | .ldrPc | .str | .strt => .word
  | .ldrb | .ldrbt | .ldrsb | .strb | .strbt => .byte
  | .ldrh | .ldrsh | .strh => .half

/-- The extension of the loaded data, given zero-extended (R69). -/
def SingleOp.extend (op : SingleOp) (data : Word) : Word :=
  match op with
  | .ldrsb => (data.extractLsb' 0 8).signExtend 32
  | .ldrsh => (data.extractLsb' 0 16).signExtend 32
  | .ldr | .ldrt | .ldrPc | .ldrb | .ldrbt | .ldrh | .str | .strt | .strb | .strbt | .strh => data

/-- The privilege with which the access is made: the T forms pass false (R66, R247). -/
def SingleOp.privilege (op : SingleOp) (s : State) : Bool :=
  match op with
  | .ldrt | .ldrbt | .strt | .strbt => false
  | .ldr | .ldrPc | .ldrb | .ldrsb | .ldrh | .ldrsh | .str | .strb | .strh => s.privileged

/-- Whether Rd may be R15: in LDR to R15 and in STR (R246 (e)). -/
def SingleOp.allowsPc (op : SingleOp) : Bool :=
  match op with
  | .ldrPc | .str => true
  | .ldr | .ldrt | .ldrb | .ldrbt | .ldrsb | .ldrh | .ldrsh | .strt | .strb | .strbt | .strh => false

/-- The register restrictions of R246; none when they are met. -/
def singleRestriction (op : SingleOp) (wb : Bool) (rn rd : Reg) (rm : Option Reg) : Option Refusal :=
  if wb && (rn == 15#4 || rd == rn || rm == some rn) then some .writebackConflict
  else if rm == some 15#4 then some .pcOperand
  else if rd == 15#4 && !op.allowsPc then some .pcOperand
  else none

/-- The end of a load: LDR to R15 branches (R252), the others write Rd. -/
def finishLoad (op : SingleOp) (rd : Reg) (data : Word) (s : State) : Result :=
  if op = .ldrPc then branchExchange data s else advance (s.setReg rd (op.extend data))

/-- The access of a single transfer at its address, the writeback and the destination (R240). -/
def singleAccess (op : SingleOp) (rn rd : Reg) (wb : Bool) (index address : Word) (s : State) : Result :=
  if op.isLoad then
    (memRead s op.size address (op.privilege s)).andThen (dataAbort rn wb (s.reg rn) index s) fun data =>
      finishLoad op rd data (s.writeBack wb rn index)
  else
    (memWrite s op.size address (s.storedReg s.bank rd) (op.privilege s)).andThen
      (dataAbort rn wb (s.reg rn) index s) fun s' => advance (s'.writeBack wb rn index)

/-- A single transfer (R240). -/
def singleTransfer (op : SingleOp) (c : Cond) (ix : IndexMode) (u : Bool) (rn rd : Reg) (off : Offset) (s : State) :
    Result :=
  conditional c (rn :: rd :: (offsetReg off).toList) s fun s =>
    match singleRestriction op (writesBack ix) rn rd (offsetReg off) with
    | some r => .refused r
    | none =>
      singleAccess op rn rd (writesBack ix) (indexed u (s.reg rn) (offsetValue off s))
        (transferAddress ix (s.reg rn) (indexed u (s.reg rn) (offsetValue off s))) s

/-- `LDR{cond} Rd, <a_mode2>` (R250), an immediate offset. -/
def execLdrImm (c : Cond) (ix : IndexMode) (u : Bool) (rn rd : Reg) (imm : BitVec 12) (s : State) : Result :=
  singleTransfer .ldr c ix u rn rd (.imm (imm.setWidth 32)) s

/-- `LDR{cond} Rd, <a_mode2>` (R250), a register offset. -/
def execLdrReg (c : Cond) (ix : IndexMode) (u : Bool) (rn rd : Reg) (amt : BitVec 5) (sh : ShiftKind) (rm : Reg) (s : State) : Result :=
  singleTransfer .ldr c ix u rn rd (.reg amt sh rm) s

/-- `LDR{cond}B Rd, <a_mode2>` (R253), an immediate offset. -/
def execLdrbImm (c : Cond) (ix : IndexMode) (u : Bool) (rn rd : Reg) (imm : BitVec 12) (s : State) : Result :=
  singleTransfer .ldrb c ix u rn rd (.imm (imm.setWidth 32)) s

/-- `LDR{cond}B Rd, <a_mode2>` (R253), a register offset. -/
def execLdrbReg (c : Cond) (ix : IndexMode) (u : Bool) (rn rd : Reg) (amt : BitVec 5) (sh : ShiftKind) (rm : Reg) (s : State) : Result :=
  singleTransfer .ldrb c ix u rn rd (.reg amt sh rm) s

/-- `STR{cond} Rd, <a_mode2>` (R258), an immediate offset. -/
def execStrImm (c : Cond) (ix : IndexMode) (u : Bool) (rn rd : Reg) (imm : BitVec 12) (s : State) : Result :=
  singleTransfer .str c ix u rn rd (.imm (imm.setWidth 32)) s

/-- `STR{cond} Rd, <a_mode2>` (R258), a register offset. -/
def execStrReg (c : Cond) (ix : IndexMode) (u : Bool) (rn rd : Reg) (amt : BitVec 5) (sh : ShiftKind) (rm : Reg) (s : State) : Result :=
  singleTransfer .str c ix u rn rd (.reg amt sh rm) s

/-- `STR{cond}B Rd, <a_mode2>` (R260), an immediate offset. -/
def execStrbImm (c : Cond) (ix : IndexMode) (u : Bool) (rn rd : Reg) (imm : BitVec 12) (s : State) : Result :=
  singleTransfer .strb c ix u rn rd (.imm (imm.setWidth 32)) s

/-- `STR{cond}B Rd, <a_mode2>` (R260), a register offset. -/
def execStrbReg (c : Cond) (ix : IndexMode) (u : Bool) (rn rd : Reg) (amt : BitVec 5) (sh : ShiftKind) (rm : Reg) (s : State) : Result :=
  singleTransfer .strb c ix u rn rd (.reg amt sh rm) s

/-- `LDR{cond} R15, <a_mode2>` (R252), an immediate offset. -/
def execLdrPcImm (c : Cond) (ix : IndexMode) (u : Bool) (rn : Reg) (imm : BitVec 12) (s : State) : Result :=
  singleTransfer .ldrPc c ix u rn 15#4 (.imm (imm.setWidth 32)) s

/-- `LDR{cond} R15, <a_mode2>` (R252), a register offset. -/
def execLdrPcReg (c : Cond) (ix : IndexMode) (u : Bool) (rn : Reg) (amt : BitVec 5) (sh : ShiftKind) (rm : Reg) (s : State) : Result :=
  singleTransfer .ldrPc c ix u rn 15#4 (.reg amt sh rm) s

/-- `LDR{cond}T Rd, <a_mode2P>` (R251), an immediate offset. -/
def execLdrtImm (c : Cond) (u : Bool) (rn rd : Reg) (imm : BitVec 12) (s : State) : Result :=
  singleTransfer .ldrt c .post u rn rd (.imm (imm.setWidth 32)) s

/-- `LDR{cond}T Rd, <a_mode2P>` (R251), a register offset. -/
def execLdrtReg (c : Cond) (u : Bool) (rn rd : Reg) (amt : BitVec 5) (sh : ShiftKind) (rm : Reg) (s : State) : Result :=
  singleTransfer .ldrt c .post u rn rd (.reg amt sh rm) s

/-- `LDR{cond}BT Rd, <a_mode2P>` (R254), an immediate offset. -/
def execLdrbtImm (c : Cond) (u : Bool) (rn rd : Reg) (imm : BitVec 12) (s : State) : Result :=
  singleTransfer .ldrbt c .post u rn rd (.imm (imm.setWidth 32)) s

/-- `LDR{cond}BT Rd, <a_mode2P>` (R254), a register offset. -/
def execLdrbtReg (c : Cond) (u : Bool) (rn rd : Reg) (amt : BitVec 5) (sh : ShiftKind) (rm : Reg) (s : State) : Result :=
  singleTransfer .ldrbt c .post u rn rd (.reg amt sh rm) s

/-- `STR{cond}T Rd, <a_mode2P>` (R259), an immediate offset. -/
def execStrtImm (c : Cond) (u : Bool) (rn rd : Reg) (imm : BitVec 12) (s : State) : Result :=
  singleTransfer .strt c .post u rn rd (.imm (imm.setWidth 32)) s

/-- `STR{cond}T Rd, <a_mode2P>` (R259), a register offset. -/
def execStrtReg (c : Cond) (u : Bool) (rn rd : Reg) (amt : BitVec 5) (sh : ShiftKind) (rm : Reg) (s : State) : Result :=
  singleTransfer .strt c .post u rn rd (.reg amt sh rm) s

/-- `STR{cond}BT Rd, <a_mode2P>` (R261), an immediate offset. -/
def execStrbtImm (c : Cond) (u : Bool) (rn rd : Reg) (imm : BitVec 12) (s : State) : Result :=
  singleTransfer .strbt c .post u rn rd (.imm (imm.setWidth 32)) s

/-- `STR{cond}BT Rd, <a_mode2P>` (R261), a register offset. -/
def execStrbtReg (c : Cond) (u : Bool) (rn rd : Reg) (amt : BitVec 5) (sh : ShiftKind) (rm : Reg) (s : State) : Result :=
  singleTransfer .strbt c .post u rn rd (.reg amt sh rm) s

/-- `LDR{cond}H Rd, <a_mode3>` (R256), an immediate offset, offset or pre-indexed. -/
def execLdrhImm (c : Cond) (u w : Bool) (rn rd : Reg) (imm : BitVec 8) (s : State) : Result :=
  singleTransfer .ldrh c (preMode w) u rn rd (.imm (imm.setWidth 32)) s

/-- `LDR{cond}H Rd, <a_mode3>` (R256), an immediate offset, post-indexed. -/
def execLdrhImmPost (c : Cond) (u : Bool) (rn rd : Reg) (imm : BitVec 8) (s : State) : Result :=
  singleTransfer .ldrh c .post u rn rd (.imm (imm.setWidth 32)) s

/-- `LDR{cond}H Rd, <a_mode3>` (R256), a register offset, offset or pre-indexed. -/
def execLdrhReg (c : Cond) (u w : Bool) (rn rd rm : Reg) (s : State) : Result :=
  singleTransfer .ldrh c (preMode w) u rn rd (plainReg rm) s

/-- `LDR{cond}H Rd, <a_mode3>` (R256), a register offset, post-indexed. -/
def execLdrhRegPost (c : Cond) (u : Bool) (rn rd rm : Reg) (s : State) : Result :=
  singleTransfer .ldrh c .post u rn rd (plainReg rm) s

/-- `LDR{cond}SB Rd, <a_mode3>` (R255), an immediate offset, offset or pre-indexed. -/
def execLdrsbImm (c : Cond) (u w : Bool) (rn rd : Reg) (imm : BitVec 8) (s : State) : Result :=
  singleTransfer .ldrsb c (preMode w) u rn rd (.imm (imm.setWidth 32)) s

/-- `LDR{cond}SB Rd, <a_mode3>` (R255), an immediate offset, post-indexed. -/
def execLdrsbImmPost (c : Cond) (u : Bool) (rn rd : Reg) (imm : BitVec 8) (s : State) : Result :=
  singleTransfer .ldrsb c .post u rn rd (.imm (imm.setWidth 32)) s

/-- `LDR{cond}SB Rd, <a_mode3>` (R255), a register offset, offset or pre-indexed. -/
def execLdrsbReg (c : Cond) (u w : Bool) (rn rd rm : Reg) (s : State) : Result :=
  singleTransfer .ldrsb c (preMode w) u rn rd (plainReg rm) s

/-- `LDR{cond}SB Rd, <a_mode3>` (R255), a register offset, post-indexed. -/
def execLdrsbRegPost (c : Cond) (u : Bool) (rn rd rm : Reg) (s : State) : Result :=
  singleTransfer .ldrsb c .post u rn rd (plainReg rm) s

/-- `LDR{cond}SH Rd, <a_mode3>` (R257), an immediate offset, offset or pre-indexed. -/
def execLdrshImm (c : Cond) (u w : Bool) (rn rd : Reg) (imm : BitVec 8) (s : State) : Result :=
  singleTransfer .ldrsh c (preMode w) u rn rd (.imm (imm.setWidth 32)) s

/-- `LDR{cond}SH Rd, <a_mode3>` (R257), an immediate offset, post-indexed. -/
def execLdrshImmPost (c : Cond) (u : Bool) (rn rd : Reg) (imm : BitVec 8) (s : State) : Result :=
  singleTransfer .ldrsh c .post u rn rd (.imm (imm.setWidth 32)) s

/-- `LDR{cond}SH Rd, <a_mode3>` (R257), a register offset, offset or pre-indexed. -/
def execLdrshReg (c : Cond) (u w : Bool) (rn rd rm : Reg) (s : State) : Result :=
  singleTransfer .ldrsh c (preMode w) u rn rd (plainReg rm) s

/-- `LDR{cond}SH Rd, <a_mode3>` (R257), a register offset, post-indexed. -/
def execLdrshRegPost (c : Cond) (u : Bool) (rn rd rm : Reg) (s : State) : Result :=
  singleTransfer .ldrsh c .post u rn rd (plainReg rm) s

/-- `STR{cond}H Rd, <a_mode3>` (R262), an immediate offset, offset or pre-indexed. -/
def execStrhImm (c : Cond) (u w : Bool) (rn rd : Reg) (imm : BitVec 8) (s : State) : Result :=
  singleTransfer .strh c (preMode w) u rn rd (.imm (imm.setWidth 32)) s

/-- `STR{cond}H Rd, <a_mode3>` (R262), an immediate offset, post-indexed. -/
def execStrhImmPost (c : Cond) (u : Bool) (rn rd : Reg) (imm : BitVec 8) (s : State) : Result :=
  singleTransfer .strh c .post u rn rd (.imm (imm.setWidth 32)) s

/-- `STR{cond}H Rd, <a_mode3>` (R262), a register offset, offset or pre-indexed. -/
def execStrhReg (c : Cond) (u w : Bool) (rn rd rm : Reg) (s : State) : Result :=
  singleTransfer .strh c (preMode w) u rn rd (plainReg rm) s

/-- `STR{cond}H Rd, <a_mode3>` (R262), a register offset, post-indexed. -/
def execStrhRegPost (c : Cond) (u : Bool) (rn rd rm : Reg) (s : State) : Result :=
  singleTransfer .strh c .post u rn rd (plainReg rm) s

end Sys2Proof.Machine
end

