-- ==== Sys2Proof/Machine/LoadStoreMultiple.lean ====
section
/-!
DEFINITION. LoadStoreMultiple.lean: the four forms of LDM and the two of STM (spec/46_load_store_multiple.md).
-/

namespace Sys2Proof.Machine

/-- Whether a register is in a list. -/
def inList {n : Nat} (list : BitVec n) (r : Reg) : Bool := list.getLsbD r.toNat

/-- The loads of a block into a bank, with what a Data Abort in the middle leaves: the registers below the aborting
address loaded, the base as `ABORT_BASE` says (R80; log 9). -/
def loadRegs (am : BlockMode) (wb : Bool) (rn : Reg) (regs : List Reg) (count : Nat) (b : Bank) (s : State)
    (k : List (Reg × Word) → Result) : Result :=
  match loadBlock s (blockStart am (s.reg rn) count) regs with
  | (vals, .ok _) => k vals
  | (vals, .abort) => dataAbort rn wb (s.reg rn) (blockFinal am (s.reg rn) count) (s.setBankRegs b vals)
  | (_, .fault f) => .fault f
  | (_, .refused e) => .refused e

/-- The stores of a block, with what a Data Abort in the middle leaves (R80). -/
def storeRegs (am : BlockMode) (wb : Bool) (rn : Reg) (words : List Word) (s : State) (k : State → Result) : Result :=
  match storeBlock s (blockStart am (s.reg rn) words.length) words with
  | (s', .ok _) => k s'
  | (s', .abort) => dataAbort rn wb (s.reg rn) (blockFinal am (s.reg rn) words.length) s'
  | (_, .fault f) => .fault f
  | (_, .refused e) => .refused e

/-- The restrictions on the base of a load (R288 (b), (c)). -/
def ldmRestriction {n : Nat} (wb : Bool) (rn : Reg) (list : BitVec n) : Option Refusal :=
  if rn = 15#4 then some .pcOperand else if wb && inList list rn then some .baseInList else none

/-- The restrictions on the base of a store (R288 (b), (d)). -/
def stmRestriction (wb : Bool) (rn : Reg) (list : BitVec 16) : Option Refusal :=
  if rn = 15#4 then some .pcOperand
  else if wb && inList list rn && (listRegs list).head? != some rn then some .baseInList
  else none

/-- The word for R15 of a load whose list has R15: it lies above the words of the other registers (R283). -/
def loadPcWord (am : BlockMode) (wb : Bool) (rn : Reg) (list : BitVec 15) (vals : List (Reg × Word)) (s : State)
    (k : Word → Result) : Result :=
  (memRead s .word (blockStart am (s.reg rn) ((listRegs list).length + 1) + blockBytes (listRegs list).length)
    s.privileged).andThen
    (dataAbort rn wb (s.reg rn) (blockFinal am (s.reg rn) ((listRegs list).length + 1)) (s.setBankRegs s.bank vals)) k

/-- The state after the loads of a block that came to its end: writeback, then the registers (R282). -/
def loadedRegs (am : BlockMode) (wb : Bool) (rn : Reg) (count : Nat) (vals : List (Reg × Word)) (s : State) : State :=
  (s.writeBack wb rn (blockFinal am (s.reg rn) count)).setBankRegs s.bank vals

/-- What a user-register transfer whose condition passed answers: its next state remembers the transfer for the next step
(R403); that it does so after a Data Abort too is DEDUCED (log 11). -/
def remembering (r : Result) : Result :=
  match r with
  | .next t => .next (t.withUserXfer true)
  | .fault f => .fault f
  | .refused e => .refused e

/-- `LDM{cond}<a_mode4L> Rd{!}, <reglist-pc>` (R282). -/
def execLdm (c : Cond) (am : BlockMode) (w : Bool) (rn : Reg) (list : BitVec 15) (s : State) : Result :=
  conditional c (rn :: listRegs list) s fun s =>
    match ldmRestriction w rn list with
    | some r => .refused r
    | none =>
      loadRegs am w rn (listRegs list) (listRegs list).length s.bank s fun vals =>
        advance (loadedRegs am w rn (listRegs list).length vals s)

/-- `LDM{cond}<a_mode4L> Rd{!}, <reglist+pc>` (R283): bit 0 of the word for R15 becomes T. -/
def execLdmPc (c : Cond) (am : BlockMode) (w : Bool) (rn : Reg) (list : BitVec 15) (s : State) : Result :=
  conditional c (rn :: listRegs list) s fun s =>
    match ldmRestriction w rn list with
    | some r => .refused r
    | none =>
      loadRegs am w rn (listRegs list) ((listRegs list).length + 1) s.bank s fun vals =>
        loadPcWord am w rn list vals s fun data =>
          branchExchange data (loadedRegs am w rn ((listRegs list).length + 1) vals s)

/-- `LDM{cond}<a_mode4L> Rd{!}, <reglist+pc>^` (R285): the return from an exception. -/
def execLdmPcRet (c : Cond) (am : BlockMode) (w : Bool) (rn : Reg) (list : BitVec 15) (s : State) : Result :=
  conditional c (rn :: listRegs list) s fun s =>
    match s.savedPsr, ldmRestriction w rn list with
    | none, _ => .refused .noSpsr
    | some _, some r => .refused r
    | some _, none =>
      loadRegs am w rn (listRegs list) ((listRegs list).length + 1) s.bank s fun vals =>
        loadPcWord am w rn list vals s fun data =>
          returnTo data (loadedRegs am w rn ((listRegs list).length + 1) vals s)

/-- `LDM{cond}<a_mode4L> Rd, <reglist-pc>^` (R284): User-mode registers, the base of the current mode. -/
def execLdmUser (c : Cond) (am : BlockMode) (rn : Reg) (list : BitVec 15) (s : State) : Result :=
  conditional c (rn :: listRegs list) s fun s =>
    if s.bank = .usr then .refused .userTransferMode
    else
      match ldmRestriction false rn list with
      | some r => .refused r
      | none =>
        remembering (loadRegs am false rn (listRegs list) (listRegs list).length .usr s fun vals =>
          advance (s.setBankRegs .usr vals))

/-- `STM{cond}<a_mode4S> Rd{!}, <reglist>` (R286): the values stored are those before the instruction. -/
def execStm (c : Cond) (am : BlockMode) (w : Bool) (rn : Reg) (list : BitVec 16) (s : State) : Result :=
  conditional c (rn :: listRegs list) s fun s =>
    match stmRestriction w rn list with
    | some r => .refused r
    | none =>
      storeRegs am w rn ((listRegs list).map (s.storedReg s.bank)) s fun s' =>
        advance (s'.writeBack w rn (blockFinal am (s.reg rn) (listRegs list).length))

/-- `STM{cond}<a_mode4S> Rd, <reglist>^` (R287): User-mode registers, the base of the current mode. -/
def execStmUser (c : Cond) (am : BlockMode) (rn : Reg) (list : BitVec 16) (s : State) : Result :=
  conditional c (rn :: listRegs list) s fun s =>
    if s.bank = .usr then .refused .userTransferMode
    else
      match stmRestriction false rn list with
      | some r => .refused r
      | none =>
        remembering (storeRegs am false rn ((listRegs list).map (s.storedReg .usr)) s advance)

end Sys2Proof.Machine
end

