-- ==== Sys2Proof/Machine/Logical.lean ====
section
/-!
DEFINITION. Logical.lean: TST, TEQ, AND, EOR, ORR, BIC, NOP, CMP and CMN (spec/43_logical_compare.md). A shift or rotate
of a register is a MOV (R207).
-/

namespace Sys2Proof.Machine

/-- AND (R202): `Rn AND Oprnd2`. -/
def andOp : AluOp := logicalOp fun a b => a &&& b

/-- `AND{cond}{S} Rd, Rn, <Oprnd2>` (R202), Operand 2 a rotated immediate. -/
def execAndImm (c : Cond) (sf : Bool) (rn rd : Reg) (rot : BitVec 4) (imm : BitVec 8) (s : State) : Result :=
  dataProcessing andOp c sf rd (some rn) (.imm rot imm) s

/-- `AND{cond}{S} Rd, Rn, <Oprnd2>` (R202), Operand 2 a register shifted by an immediate. -/
def execAndShift (c : Cond) (sf : Bool) (rn rd : Reg) (amt : BitVec 5) (sh : ShiftKind) (rm : Reg) (s : State) : Result :=
  dataProcessing andOp c sf rd (some rn) (.shift amt sh rm) s

/-- `AND{cond}{S} Rd, Rn, <Oprnd2>` (R202), Operand 2 a register shifted by a register. -/
def execAndReg (c : Cond) (sf : Bool) (rn rd rs : Reg) (sh : ShiftKind) (rm : Reg) (s : State) : Result :=
  dataProcessing andOp c sf rd (some rn) (.reg rs sh rm) s

/-- EOR (R203): `Rn EOR Oprnd2`. -/
def eorOp : AluOp := logicalOp fun a b => a ^^^ b

/-- `EOR{cond}{S} Rd, Rn, <Oprnd2>` (R203), Operand 2 a rotated immediate. -/
def execEorImm (c : Cond) (sf : Bool) (rn rd : Reg) (rot : BitVec 4) (imm : BitVec 8) (s : State) : Result :=
  dataProcessing eorOp c sf rd (some rn) (.imm rot imm) s

/-- `EOR{cond}{S} Rd, Rn, <Oprnd2>` (R203), Operand 2 a register shifted by an immediate. -/
def execEorShift (c : Cond) (sf : Bool) (rn rd : Reg) (amt : BitVec 5) (sh : ShiftKind) (rm : Reg) (s : State) : Result :=
  dataProcessing eorOp c sf rd (some rn) (.shift amt sh rm) s

/-- `EOR{cond}{S} Rd, Rn, <Oprnd2>` (R203), Operand 2 a register shifted by a register. -/
def execEorReg (c : Cond) (sf : Bool) (rn rd rs : Reg) (sh : ShiftKind) (rm : Reg) (s : State) : Result :=
  dataProcessing eorOp c sf rd (some rn) (.reg rs sh rm) s

/-- ORR (R204): `Rn OR Oprnd2`. -/
def orrOp : AluOp := logicalOp fun a b => a ||| b

/-- `ORR{cond}{S} Rd, Rn, <Oprnd2>` (R204), Operand 2 a rotated immediate. -/
def execOrrImm (c : Cond) (sf : Bool) (rn rd : Reg) (rot : BitVec 4) (imm : BitVec 8) (s : State) : Result :=
  dataProcessing orrOp c sf rd (some rn) (.imm rot imm) s

/-- `ORR{cond}{S} Rd, Rn, <Oprnd2>` (R204), Operand 2 a register shifted by an immediate. -/
def execOrrShift (c : Cond) (sf : Bool) (rn rd : Reg) (amt : BitVec 5) (sh : ShiftKind) (rm : Reg) (s : State) : Result :=
  dataProcessing orrOp c sf rd (some rn) (.shift amt sh rm) s

/-- `ORR{cond}{S} Rd, Rn, <Oprnd2>` (R204), Operand 2 a register shifted by a register. -/
def execOrrReg (c : Cond) (sf : Bool) (rn rd rs : Reg) (sh : ShiftKind) (rm : Reg) (s : State) : Result :=
  dataProcessing orrOp c sf rd (some rn) (.reg rs sh rm) s

/-- BIC (R205): `Rn AND NOT Oprnd2`. -/
def bicOp : AluOp := logicalOp fun a b => a &&& (0xFFFFFFFF#32 ^^^ b)

/-- `BIC{cond}{S} Rd, Rn, <Oprnd2>` (R205), Operand 2 a rotated immediate. -/
def execBicImm (c : Cond) (sf : Bool) (rn rd : Reg) (rot : BitVec 4) (imm : BitVec 8) (s : State) : Result :=
  dataProcessing bicOp c sf rd (some rn) (.imm rot imm) s

/-- `BIC{cond}{S} Rd, Rn, <Oprnd2>` (R205), Operand 2 a register shifted by an immediate. -/
def execBicShift (c : Cond) (sf : Bool) (rn rd : Reg) (amt : BitVec 5) (sh : ShiftKind) (rm : Reg) (s : State) : Result :=
  dataProcessing bicOp c sf rd (some rn) (.shift amt sh rm) s

/-- `BIC{cond}{S} Rd, Rn, <Oprnd2>` (R205), Operand 2 a register shifted by a register. -/
def execBicReg (c : Cond) (sf : Bool) (rn rd rs : Reg) (sh : ShiftKind) (rm : Reg) (s : State) : Result :=
  dataProcessing bicOp c sf rd (some rn) (.reg rs sh rm) s

/-- TST (R200): `Update CPSR flags on Rn AND Oprnd2`. -/
def tstOp : AluOp := logicalOp fun a b => a &&& b

/-- `TST{cond} Rn, <Oprnd2>` (R200), Operand 2 a rotated immediate. -/
def execTstImm (c : Cond) (rn : Reg) (rot : BitVec 4) (imm : BitVec 8) (s : State) : Result :=
  compare tstOp c rn (.imm rot imm) s

/-- `TST{cond} Rn, <Oprnd2>` (R200), Operand 2 a register shifted by an immediate. -/
def execTstShift (c : Cond) (rn : Reg) (amt : BitVec 5) (sh : ShiftKind) (rm : Reg) (s : State) : Result :=
  compare tstOp c rn (.shift amt sh rm) s

/-- `TST{cond} Rn, <Oprnd2>` (R200), Operand 2 a register shifted by a register. -/
def execTstReg (c : Cond) (rn rs : Reg) (sh : ShiftKind) (rm : Reg) (s : State) : Result :=
  compare tstOp c rn (.reg rs sh rm) s

/-- TEQ (R201): `Update CPSR flags on Rn EOR Oprnd2`. -/
def teqOp : AluOp := logicalOp fun a b => a ^^^ b

/-- `TEQ{cond} Rn, <Oprnd2>` (R201), Operand 2 a rotated immediate. -/
def execTeqImm (c : Cond) (rn : Reg) (rot : BitVec 4) (imm : BitVec 8) (s : State) : Result :=
  compare teqOp c rn (.imm rot imm) s

/-- `TEQ{cond} Rn, <Oprnd2>` (R201), Operand 2 a register shifted by an immediate. -/
def execTeqShift (c : Cond) (rn : Reg) (amt : BitVec 5) (sh : ShiftKind) (rm : Reg) (s : State) : Result :=
  compare teqOp c rn (.shift amt sh rm) s

/-- `TEQ{cond} Rn, <Oprnd2>` (R201), Operand 2 a register shifted by a register. -/
def execTeqReg (c : Cond) (rn rs : Reg) (sh : ShiftKind) (rm : Reg) (s : State) : Result :=
  compare teqOp c rn (.reg rs sh rm) s

/-- CMP (R208): `Update CPSR flags on Rn - Oprnd2`. -/
def cmpOp : AluOp := arithmeticOp fun a b _ => addWithCarry a (~~~b) true

/-- `CMP{cond} Rn, <Oprnd2>` (R208), Operand 2 a rotated immediate. -/
def execCmpImm (c : Cond) (rn : Reg) (rot : BitVec 4) (imm : BitVec 8) (s : State) : Result :=
  compare cmpOp c rn (.imm rot imm) s

/-- `CMP{cond} Rn, <Oprnd2>` (R208), Operand 2 a register shifted by an immediate. -/
def execCmpShift (c : Cond) (rn : Reg) (amt : BitVec 5) (sh : ShiftKind) (rm : Reg) (s : State) : Result :=
  compare cmpOp c rn (.shift amt sh rm) s

/-- `CMP{cond} Rn, <Oprnd2>` (R208), Operand 2 a register shifted by a register. -/
def execCmpReg (c : Cond) (rn rs : Reg) (sh : ShiftKind) (rm : Reg) (s : State) : Result :=
  compare cmpOp c rn (.reg rs sh rm) s

/-- CMN (R209): `Update CPSR flags on Rn + Oprnd2`. -/
def cmnOp : AluOp := arithmeticOp fun a b _ => addWithCarry a b false

/-- `CMN{cond} Rn, <Oprnd2>` (R209), Operand 2 a rotated immediate. -/
def execCmnImm (c : Cond) (rn : Reg) (rot : BitVec 4) (imm : BitVec 8) (s : State) : Result :=
  compare cmnOp c rn (.imm rot imm) s

/-- `CMN{cond} Rn, <Oprnd2>` (R209), Operand 2 a register shifted by an immediate. -/
def execCmnShift (c : Cond) (rn : Reg) (amt : BitVec 5) (sh : ShiftKind) (rm : Reg) (s : State) : Result :=
  compare cmnOp c rn (.shift amt sh rm) s

/-- `CMN{cond} Rn, <Oprnd2>` (R209), Operand 2 a register shifted by a register. -/
def execCmnReg (c : Cond) (rn rs : Reg) (sh : ShiftKind) (rm : Reg) (s : State) : Result :=
  compare cmnOp c rn (.reg rs sh rm) s

/-- `NOP` (R206): only `pc` moves; R0 is not named. -/
def execNop (s : State) : Result := always [] s fun s => advance s

end Sys2Proof.Machine
end

