-- ==== Sys2Proof/Machine/Move.lean ====
section
/-!
DEFINITION. Move.lean: MOV, MVN, MRS and MSR (spec/40_move_psr.md).
-/

namespace Sys2Proof.Machine

/-- MOV (R140): `Oprnd2`; Rn is not read. -/
def movOp : AluOp := logicalOp fun _ b => b

/-- `MOV{cond}{S} Rd, <Oprnd2>` (R140), Operand 2 a rotated immediate. -/
def execMovImm (c : Cond) (sf : Bool) (rd : Reg) (rot : BitVec 4) (imm : BitVec 8) (s : State) : Result :=
  dataProcessing movOp c sf rd none (.imm rot imm) s

/-- `MOV{cond}{S} Rd, <Oprnd2>` (R140), Operand 2 a register shifted by an immediate. -/
def execMovShift (c : Cond) (sf : Bool) (rd : Reg) (amt : BitVec 5) (sh : ShiftKind) (rm : Reg) (s : State) : Result :=
  dataProcessing movOp c sf rd none (.shift amt sh rm) s

/-- `MOV{cond}{S} Rd, <Oprnd2>` (R140), Operand 2 a register shifted by a register. -/
def execMovReg (c : Cond) (sf : Bool) (rd rs : Reg) (sh : ShiftKind) (rm : Reg) (s : State) : Result :=
  dataProcessing movOp c sf rd none (.reg rs sh rm) s

/-- MVN (R141): `0xFFFFFFFF EOR Oprnd2`; Rn is not read. -/
def mvnOp : AluOp := logicalOp fun _ b => 0xFFFFFFFF#32 ^^^ b

/-- `MVN{cond}{S} Rd, <Oprnd2>` (R141), Operand 2 a rotated immediate. -/
def execMvnImm (c : Cond) (sf : Bool) (rd : Reg) (rot : BitVec 4) (imm : BitVec 8) (s : State) : Result :=
  dataProcessing mvnOp c sf rd none (.imm rot imm) s

/-- `MVN{cond}{S} Rd, <Oprnd2>` (R141), Operand 2 a register shifted by an immediate. -/
def execMvnShift (c : Cond) (sf : Bool) (rd : Reg) (amt : BitVec 5) (sh : ShiftKind) (rm : Reg) (s : State) : Result :=
  dataProcessing mvnOp c sf rd none (.shift amt sh rm) s

/-- `MVN{cond}{S} Rd, <Oprnd2>` (R141), Operand 2 a register shifted by a register. -/
def execMvnReg (c : Cond) (sf : Bool) (rd rs : Reg) (sh : ShiftKind) (rm : Reg) (s : State) : Result :=
  dataProcessing mvnOp c sf rd none (.reg rs sh rm) s

/-- `MRS{cond} Rd, CPSR` (R142): all 32 bits of the CPSR. -/
def execMrsCpsr (c : Cond) (rd : Reg) (s : State) : Result := registersOnly c [rd] false s fun s => s.setReg rd s.cpsr

/-- `MRS{cond} Rd, SPSR` (R143): refused in USER and System mode. -/
def execMrsSpsr (c : Cond) (rd : Reg) (s : State) : Result :=
  conditional c [rd] s fun s =>
    if rd = 15#4 then .refused .pcOperand
    else
      match s.savedPsr with
      | none => .refused .noSpsr
      | some saved => advance (s.setReg rd saved)

/-- The bits of the CPSR that an MSR may change in the current mode (R146). -/
def msrMask (s : State) (fields : BitVec 4) : Word :=
  Psr.byteMask fields &&& (if s.privileged then Psr.userMask ||| Psr.privMask else Psr.userMask)

/-- A PSR with the bits of `mask` replaced by those of `operand` (R146). -/
def mergePsr (p operand mask : Word) : Word := (p &&& ~~~mask) ||| (operand &&& mask)

/-- MSR to the CPSR (R146). -/
def msrCpsr (fields : BitVec 4) (operand : Word) (s : State) : Result :=
  if fields = 0b0000#4 then .refused .noFieldSelected
  else if operand &&& Psr.byteMask fields &&& Psr.unallocMask ≠ 0x00000000#32 then .refused .reservedPsrBit
  else if s.privileged && operand &&& Psr.byteMask fields &&& Psr.stateMask != 0x00000000#32 then .refused .msrSetsT
  else if !Psr.legalMode (Psr.mode (mergePsr s.cpsr operand (msrMask s fields))) then .refused .illegalMode
  else advance (s.withCpsr (mergePsr s.cpsr operand (msrMask s fields)))

/-- MSR to the SPSR (R146): T may be written; the mode number is not checked here. -/
def msrSpsr (fields : BitVec 4) (operand : Word) (s : State) : Result :=
  if fields = 0b0000#4 then .refused .noFieldSelected
  else if operand &&& Psr.byteMask fields &&& Psr.unallocMask ≠ 0x00000000#32 then .refused .reservedPsrBit
  else
    match s.savedPsr with
    | none => .refused .noSpsr
    | some saved =>
      advance (s.withSpsr (s.spsr.set s.bank (mergePsr saved operand
        (Psr.byteMask fields &&& (Psr.userMask ||| Psr.privMask ||| Psr.stateMask)))))

/-- `MSR{cond} CPSR_<fields>, Rm` (R147): Rm = R15 is refused. -/
def execMsrCpsrReg (c : Cond) (fields : BitVec 4) (rm : Reg) (s : State) : Result :=
  conditional c [rm] s fun s =>
    if rm = 15#4 then .refused .pcOperand else msrCpsr fields (s.reg rm) s

/-- `MSR{cond} SPSR_<fields>, Rm` (R148): Rm = R15 is refused. -/
def execMsrSpsrReg (c : Cond) (fields : BitVec 4) (rm : Reg) (s : State) : Result :=
  conditional c [rm] s fun s =>
    if rm = 15#4 then .refused .pcOperand else msrSpsr fields (s.reg rm) s

/-- `MSR{cond} CPSR_<fields>, #<immed_8r>` (R149). -/
def execMsrCpsrImm (c : Cond) (fields rot : BitVec 4) (imm : BitVec 8) (s : State) : Result :=
  conditional c [] s fun s => msrCpsr fields (rotatedImm rot imm) s

/-- `MSR{cond} SPSR_<fields>, #<immed_8r>` (R150). -/
def execMsrSpsrImm (c : Cond) (fields rot : BitVec 4) (imm : BitVec 8) (s : State) : Result :=
  conditional c [] s fun s => msrSpsr fields (rotatedImm rot imm) s

end Sys2Proof.Machine
end

