-- ==== Sys2Proof/Machine/Multiply.lean ====
section
/-!
DEFINITION. Multiply.lean: the 32-bit and 64-bit multiplies, the 16-bit multiplies and CLZ (spec/42_multiply.md). C and V
are unchanged by the S forms under `ARCH` = 5TE (R193).
-/

namespace Sys2Proof.Machine

/-- A 32-bit product written to its destination, with N and Z when S is present (R181, R193). -/
def writeProduct (sf : Bool) (rd : Reg) (result : Word) (s : State) : State :=
  (if sf then s.withCpsr (Psr.setNZ s.cpsr result) else s).setReg rd result

/-- A 64-bit result written to its two destinations, with N and Z when S is present (R183, R193). -/
def writeLong (sf : Bool) (rdHi rdLo : Reg) (p : BitVec 64) (s : State) : State :=
  ((if sf then s.withCpsr (Psr.setNZ64 s.cpsr p) else s).setReg rdHi (p.extractLsb' 32 32)).setReg rdLo
    (p.extractLsb' 0 32)

/-- The accumulator pair `x[dHi] : x[dLo]` (R184). -/
def longAcc (rdHi rdLo : Reg) (s : State) : BitVec 64 := s.reg rdHi ++ s.reg rdLo

/-- The registers that may not coincide in the four long multiplies (R180). -/
def longClash (rdHi rdLo rm : Reg) : Bool := rdHi == rdLo || rdHi == rm || rdLo == rm

/-- `MUL{cond}{S} Rd, Rm, Rs` (R181). -/
def execMul (c : Cond) (sf : Bool) (rd rs rm : Reg) (s : State) : Result :=
  registersOnly c [rd, rs, rm] (rd == rm) s fun s =>
    writeProduct sf rd (BitVec.ofNat 32 ((s.reg rm).toNat * (s.reg rs).toNat)) s

/-- `MLA{cond}{S} Rd, Rm, Rs, Rn` (R182). -/
def execMla (c : Cond) (sf : Bool) (rd rn rs rm : Reg) (s : State) : Result :=
  registersOnly c [rd, rn, rs, rm] (rd == rm) s fun s =>
    writeProduct sf rd (BitVec.ofNat 32 ((s.reg rm).toNat * (s.reg rs).toNat + (s.reg rn).toNat)) s

/-- `UMULL{cond}{S} RdLo, RdHi, Rm, Rs` (R183). -/
def execUmull (c : Cond) (sf : Bool) (rdHi rdLo rs rm : Reg) (s : State) : Result :=
  registersOnly c [rdHi, rdLo, rs, rm] (longClash rdHi rdLo rm) s fun s =>
    writeLong sf rdHi rdLo (BitVec.ofNat 64 ((s.reg rm).toNat * (s.reg rs).toNat)) s

/-- `UMLAL{cond}{S} RdLo, RdHi, Rm, Rs` (R184). -/
def execUmlal (c : Cond) (sf : Bool) (rdHi rdLo rs rm : Reg) (s : State) : Result :=
  registersOnly c [rdHi, rdLo, rs, rm] (longClash rdHi rdLo rm) s fun s =>
    writeLong sf rdHi rdLo
      (BitVec.ofNat 64 ((longAcc rdHi rdLo s).toNat + (s.reg rm).toNat * (s.reg rs).toNat)) s

/-- `SMULL{cond}{S} RdLo, RdHi, Rm, Rs` (R185). -/
def execSmull (c : Cond) (sf : Bool) (rdHi rdLo rs rm : Reg) (s : State) : Result :=
  registersOnly c [rdHi, rdLo, rs, rm] (longClash rdHi rdLo rm) s fun s =>
    writeLong sf rdHi rdLo (BitVec.ofInt 64 ((s.reg rm).toInt * (s.reg rs).toInt)) s

/-- `SMLAL{cond}{S} RdLo, RdHi, Rm, Rs` (R186). -/
def execSmlal (c : Cond) (sf : Bool) (rdHi rdLo rs rm : Reg) (s : State) : Result :=
  registersOnly c [rdHi, rdLo, rs, rm] (longClash rdHi rdLo rm) s fun s =>
    writeLong sf rdHi rdLo
      (BitVec.ofInt 64 ((longAcc rdHi rdLo s).toInt + (s.reg rm).toInt * (s.reg rs).toInt)) s

/-- Bits 47:16 of the exact product of a word and a signed half (R188). -/
def product48 (a : Word) (half : Int) : Word := (BitVec.ofInt 48 (a.toInt * half)).extractLsb' 16 32

/-- An accumulated 16-bit product: the sum wraps, and Q is set when it does not fit (R189). -/
def writeAccumulated (rd : Reg) (t : Int) (s : State) : State :=
  (s.withCpsr (Psr.stickyQ s.cpsr (!fitsSigned t))).setReg rd (BitVec.ofInt 32 t)

/-- `SMULxy{cond} Rd, Rm, Rs` (R187). -/
def execSmulxy (c : Cond) (x y : Bool) (rd rs rm : Reg) (s : State) : Result :=
  registersOnly c [rd, rs, rm] false s fun s =>
    s.setReg rd (BitVec.ofInt 32 (signedHalf (s.reg rm) x * signedHalf (s.reg rs) y))

/-- `SMULWy{cond} Rd, Rm, Rs` (R188). -/
def execSmulwy (c : Cond) (y : Bool) (rd rs rm : Reg) (s : State) : Result :=
  registersOnly c [rd, rs, rm] false s fun s =>
    s.setReg rd (product48 (s.reg rm) (signedHalf (s.reg rs) y))

/-- `SMLAxy{cond} Rd, Rm, Rs, Rn` (R189). -/
def execSmlaxy (c : Cond) (x y : Bool) (rd rn rs rm : Reg) (s : State) : Result :=
  registersOnly c [rd, rn, rs, rm] false s fun s =>
    writeAccumulated rd ((s.reg rn).toInt + signedHalf (s.reg rm) x * signedHalf (s.reg rs) y) s

/-- `SMLAWy{cond} Rd, Rm, Rs, Rn` (R190). -/
def execSmlawy (c : Cond) (y : Bool) (rd rn rs rm : Reg) (s : State) : Result :=
  registersOnly c [rd, rn, rs, rm] false s fun s =>
    writeAccumulated rd ((s.reg rn).toInt + (product48 (s.reg rm) (signedHalf (s.reg rs) y)).toInt) s

/-- `SMLALxy{cond} RdLo, RdHi, Rm, Rs` (R191). -/
def execSmlalxy (c : Cond) (x y : Bool) (rdHi rdLo rs rm : Reg) (s : State) : Result :=
  registersOnly c [rdHi, rdLo, rs, rm] (rdHi == rdLo) s fun s =>
    writeLong false rdHi rdLo
      (BitVec.ofInt 64 ((longAcc rdHi rdLo s).toInt + signedHalf (s.reg rm) x * signedHalf (s.reg rs) y)) s

/-- The number of consecutive 0 bits of `x` from bit `n - 1` downward (R192). -/
def leadingZeros (x : Word) : Nat → Nat
  | 0 => 0
  | n + 1 => if x.getLsbD n then 0 else leadingZeros x n + 1

/-- `CLZ{cond} Rd, Rm` (R192). -/
def execClz (c : Cond) (rd rm : Reg) (s : State) : Result :=
  registersOnly c [rd, rm] false s fun s =>
    s.setReg rd (BitVec.ofNat 32 (leadingZeros (s.reg rm) 32))

end Sys2Proof.Machine
end

