-- ==== Sys2Proof/Machine/Swap.lean ====
section
/-!
DEFINITION. Swap.lean: SWP and SWPB (spec/47_swap.md).
-/

namespace Sys2Proof.Machine

/-- A swap of one size: read, write, then the register (R300, R301). An abort of the read leaves memory, an abort of
the write leaves Rd (R80). -/
def swap (z : Size) (c : Cond) (rn rd rm : Reg) (s : State) : Result :=
  conditional c [rn, rd, rm] s fun s =>
    if rn = 15#4 ∨ rd = 15#4 ∨ rm = 15#4 then .refused .pcOperand
    else if rn = rm ∨ rn = rd then .refused .sameRegister
    else
      (memRead s z (s.reg rn) s.privileged).andThen (raise .dataAbort s) fun temp =>
        (memWrite s z (s.reg rn) (s.reg rm) s.privileged).andThen (raise .dataAbort s) fun s' =>
          advance (s'.setReg rd temp)

/-- `SWP{cond} Rd, Rm, [Rn]` (R301). -/
def execSwp (c : Cond) (rn rd rm : Reg) (s : State) : Result := swap .word c rn rd rm s

/-- `SWP{cond}B Rd, Rm, [Rn]` (R302): Rd is zero-extended. -/
def execSwpb (c : Cond) (rn rd rm : Reg) (s : State) : Result := swap .byte c rn rd rm s

end Sys2Proof.Machine
end

