-- ==== Sys2Proof/Machine/Dispatch.lean ====
section
/-!
DEFINITION. Dispatch.lean: one arm for each constructor of `Instr`, each one call of its meaning.
-/

namespace Sys2Proof.Machine

/-- What an instruction does: its condition, its effect and the move of R15 (R27 steps 5 to 7). -/
def exec (i : Instr) (s : State) : Host.Outcome State Fault Refusal :=
  match i with
  | .blxLabel h imm => Sys2Proof.Machine.execBlxLabel h imm s
  | .ldc2Off u n w rn crd cp off => Sys2Proof.Machine.execLdc2Off u n w rn crd cp off s
  | .ldc2Post u n rn crd cp off => Sys2Proof.Machine.execLdc2Post u n rn crd cp off s
  | .ldc2Unidx n rn crd cp off => Sys2Proof.Machine.execLdc2Unidx n rn crd cp off s
  | .stc2Off u n w rn crd cp off => Sys2Proof.Machine.execStc2Off u n w rn crd cp off s
  | .stc2Post u n rn crd cp off => Sys2Proof.Machine.execStc2Post u n rn crd cp off s
  | .stc2Unidx n rn crd cp off => Sys2Proof.Machine.execStc2Unidx n rn crd cp off s
  | .cdp2 op1 crn crd cp op2 crm => Sys2Proof.Machine.execCdp2 op1 crn crd cp op2 crm s
  | .mrc2 op1 crn rd cp op2 crm => Sys2Proof.Machine.execMrc2 op1 crn rd cp op2 crm s
  | .mcr2 op1 crn rd cp op2 crm => Sys2Proof.Machine.execMcr2 op1 crn rd cp op2 crm s
  | .mul c sf rd rs rm => Sys2Proof.Machine.execMul c sf rd rs rm s
  | .mla c sf rd rn rs rm => Sys2Proof.Machine.execMla c sf rd rn rs rm s
  | .umull c sf rdHi rdLo rs rm => Sys2Proof.Machine.execUmull c sf rdHi rdLo rs rm s
  | .umlal c sf rdHi rdLo rs rm => Sys2Proof.Machine.execUmlal c sf rdHi rdLo rs rm s
  | .smull c sf rdHi rdLo rs rm => Sys2Proof.Machine.execSmull c sf rdHi rdLo rs rm s
  | .smlal c sf rdHi rdLo rs rm => Sys2Proof.Machine.execSmlal c sf rdHi rdLo rs rm s
  | .swp c rn rd rm => Sys2Proof.Machine.execSwp c rn rd rm s
  | .swpb c rn rd rm => Sys2Proof.Machine.execSwpb c rn rd rm s
  | .ldrhImm c u w rn rd imm => Sys2Proof.Machine.execLdrhImm c u w rn rd imm s
  | .ldrhImmPost c u rn rd imm => Sys2Proof.Machine.execLdrhImmPost c u rn rd imm s
  | .ldrhReg c u w rn rd rm => Sys2Proof.Machine.execLdrhReg c u w rn rd rm s
  | .ldrhRegPost c u rn rd rm => Sys2Proof.Machine.execLdrhRegPost c u rn rd rm s
  | .ldrsbImm c u w rn rd imm => Sys2Proof.Machine.execLdrsbImm c u w rn rd imm s
  | .ldrsbImmPost c u rn rd imm => Sys2Proof.Machine.execLdrsbImmPost c u rn rd imm s
  | .ldrsbReg c u w rn rd rm => Sys2Proof.Machine.execLdrsbReg c u w rn rd rm s
  | .ldrsbRegPost c u rn rd rm => Sys2Proof.Machine.execLdrsbRegPost c u rn rd rm s
  | .ldrshImm c u w rn rd imm => Sys2Proof.Machine.execLdrshImm c u w rn rd imm s
  | .ldrshImmPost c u rn rd imm => Sys2Proof.Machine.execLdrshImmPost c u rn rd imm s
  | .ldrshReg c u w rn rd rm => Sys2Proof.Machine.execLdrshReg c u w rn rd rm s
  | .ldrshRegPost c u rn rd rm => Sys2Proof.Machine.execLdrshRegPost c u rn rd rm s
  | .strhImm c u w rn rd imm => Sys2Proof.Machine.execStrhImm c u w rn rd imm s
  | .strhImmPost c u rn rd imm => Sys2Proof.Machine.execStrhImmPost c u rn rd imm s
  | .strhReg c u w rn rd rm => Sys2Proof.Machine.execStrhReg c u w rn rd rm s
  | .strhRegPost c u rn rd rm => Sys2Proof.Machine.execStrhRegPost c u rn rd rm s
  | .mrsCpsr c rd => Sys2Proof.Machine.execMrsCpsr c rd s
  | .mrsSpsr c rd => Sys2Proof.Machine.execMrsSpsr c rd s
  | .msrCpsrReg c fields rm => Sys2Proof.Machine.execMsrCpsrReg c fields rm s
  | .msrSpsrReg c fields rm => Sys2Proof.Machine.execMsrSpsrReg c fields rm s
  | .msrCpsrImm c fields rot imm => Sys2Proof.Machine.execMsrCpsrImm c fields rot imm s
  | .msrSpsrImm c fields rot imm => Sys2Proof.Machine.execMsrSpsrImm c fields rot imm s
  | .bx c rm => Sys2Proof.Machine.execBx c rm s
  | .blxReg c rm => Sys2Proof.Machine.execBlxReg c rm s
  | .clz c rd rm => Sys2Proof.Machine.execClz c rd rm s
  | .bkpt imm => Sys2Proof.Machine.execBkpt imm s
  | .qadd c rn rd rm => Sys2Proof.Machine.execQadd c rn rd rm s
  | .qsub c rn rd rm => Sys2Proof.Machine.execQsub c rn rd rm s
  | .qdadd c rn rd rm => Sys2Proof.Machine.execQdadd c rn rd rm s
  | .qdsub c rn rd rm => Sys2Proof.Machine.execQdsub c rn rd rm s
  | .smlaxy c x y rd rn rs rm => Sys2Proof.Machine.execSmlaxy c x y rd rn rs rm s
  | .smlawy c y rd rn rs rm => Sys2Proof.Machine.execSmlawy c y rd rn rs rm s
  | .smulwy c y rd rs rm => Sys2Proof.Machine.execSmulwy c y rd rs rm s
  | .smlalxy c x y rdHi rdLo rs rm => Sys2Proof.Machine.execSmlalxy c x y rdHi rdLo rs rm s
  | .smulxy c x y rd rs rm => Sys2Proof.Machine.execSmulxy c x y rd rs rm s
  | .nop => Sys2Proof.Machine.execNop s
  | .andImm c sf rn rd rot imm => Sys2Proof.Machine.execAndImm c sf rn rd rot imm s
  | .andShift c sf rn rd amt sh rm => Sys2Proof.Machine.execAndShift c sf rn rd amt sh rm s
  | .andReg c sf rn rd rs sh rm => Sys2Proof.Machine.execAndReg c sf rn rd rs sh rm s
  | .eorImm c sf rn rd rot imm => Sys2Proof.Machine.execEorImm c sf rn rd rot imm s
  | .eorShift c sf rn rd amt sh rm => Sys2Proof.Machine.execEorShift c sf rn rd amt sh rm s
  | .eorReg c sf rn rd rs sh rm => Sys2Proof.Machine.execEorReg c sf rn rd rs sh rm s
  | .subImm c sf rn rd rot imm => Sys2Proof.Machine.execSubImm c sf rn rd rot imm s
  | .subShift c sf rn rd amt sh rm => Sys2Proof.Machine.execSubShift c sf rn rd amt sh rm s
  | .subReg c sf rn rd rs sh rm => Sys2Proof.Machine.execSubReg c sf rn rd rs sh rm s
  | .rsbImm c sf rn rd rot imm => Sys2Proof.Machine.execRsbImm c sf rn rd rot imm s
  | .rsbShift c sf rn rd amt sh rm => Sys2Proof.Machine.execRsbShift c sf rn rd amt sh rm s
  | .rsbReg c sf rn rd rs sh rm => Sys2Proof.Machine.execRsbReg c sf rn rd rs sh rm s
  | .addImm c sf rn rd rot imm => Sys2Proof.Machine.execAddImm c sf rn rd rot imm s
  | .addShift c sf rn rd amt sh rm => Sys2Proof.Machine.execAddShift c sf rn rd amt sh rm s
  | .addReg c sf rn rd rs sh rm => Sys2Proof.Machine.execAddReg c sf rn rd rs sh rm s
  | .adcImm c sf rn rd rot imm => Sys2Proof.Machine.execAdcImm c sf rn rd rot imm s
  | .adcShift c sf rn rd amt sh rm => Sys2Proof.Machine.execAdcShift c sf rn rd amt sh rm s
  | .adcReg c sf rn rd rs sh rm => Sys2Proof.Machine.execAdcReg c sf rn rd rs sh rm s
  | .sbcImm c sf rn rd rot imm => Sys2Proof.Machine.execSbcImm c sf rn rd rot imm s
  | .sbcShift c sf rn rd amt sh rm => Sys2Proof.Machine.execSbcShift c sf rn rd amt sh rm s
  | .sbcReg c sf rn rd rs sh rm => Sys2Proof.Machine.execSbcReg c sf rn rd rs sh rm s
  | .rscImm c sf rn rd rot imm => Sys2Proof.Machine.execRscImm c sf rn rd rot imm s
  | .rscShift c sf rn rd amt sh rm => Sys2Proof.Machine.execRscShift c sf rn rd amt sh rm s
  | .rscReg c sf rn rd rs sh rm => Sys2Proof.Machine.execRscReg c sf rn rd rs sh rm s
  | .tstImm c rn rot imm => Sys2Proof.Machine.execTstImm c rn rot imm s
  | .tstShift c rn amt sh rm => Sys2Proof.Machine.execTstShift c rn amt sh rm s
  | .tstReg c rn rs sh rm => Sys2Proof.Machine.execTstReg c rn rs sh rm s
  | .teqImm c rn rot imm => Sys2Proof.Machine.execTeqImm c rn rot imm s
  | .teqShift c rn amt sh rm => Sys2Proof.Machine.execTeqShift c rn amt sh rm s
  | .teqReg c rn rs sh rm => Sys2Proof.Machine.execTeqReg c rn rs sh rm s
  | .cmpImm c rn rot imm => Sys2Proof.Machine.execCmpImm c rn rot imm s
  | .cmpShift c rn amt sh rm => Sys2Proof.Machine.execCmpShift c rn amt sh rm s
  | .cmpReg c rn rs sh rm => Sys2Proof.Machine.execCmpReg c rn rs sh rm s
  | .cmnImm c rn rot imm => Sys2Proof.Machine.execCmnImm c rn rot imm s
  | .cmnShift c rn amt sh rm => Sys2Proof.Machine.execCmnShift c rn amt sh rm s
  | .cmnReg c rn rs sh rm => Sys2Proof.Machine.execCmnReg c rn rs sh rm s
  | .orrImm c sf rn rd rot imm => Sys2Proof.Machine.execOrrImm c sf rn rd rot imm s
  | .orrShift c sf rn rd amt sh rm => Sys2Proof.Machine.execOrrShift c sf rn rd amt sh rm s
  | .orrReg c sf rn rd rs sh rm => Sys2Proof.Machine.execOrrReg c sf rn rd rs sh rm s
  | .movImm c sf rd rot imm => Sys2Proof.Machine.execMovImm c sf rd rot imm s
  | .movShift c sf rd amt sh rm => Sys2Proof.Machine.execMovShift c sf rd amt sh rm s
  | .movReg c sf rd rs sh rm => Sys2Proof.Machine.execMovReg c sf rd rs sh rm s
  | .bicImm c sf rn rd rot imm => Sys2Proof.Machine.execBicImm c sf rn rd rot imm s
  | .bicShift c sf rn rd amt sh rm => Sys2Proof.Machine.execBicShift c sf rn rd amt sh rm s
  | .bicReg c sf rn rd rs sh rm => Sys2Proof.Machine.execBicReg c sf rn rd rs sh rm s
  | .mvnImm c sf rd rot imm => Sys2Proof.Machine.execMvnImm c sf rd rot imm s
  | .mvnShift c sf rd amt sh rm => Sys2Proof.Machine.execMvnShift c sf rd amt sh rm s
  | .mvnReg c sf rd rs sh rm => Sys2Proof.Machine.execMvnReg c sf rd rs sh rm s
  | .ldrtImm c u rn rd imm => Sys2Proof.Machine.execLdrtImm c u rn rd imm s
  | .ldrtReg c u rn rd amt sh rm => Sys2Proof.Machine.execLdrtReg c u rn rd amt sh rm s
  | .ldrbtImm c u rn rd imm => Sys2Proof.Machine.execLdrbtImm c u rn rd imm s
  | .ldrbtReg c u rn rd amt sh rm => Sys2Proof.Machine.execLdrbtReg c u rn rd amt sh rm s
  | .strtImm c u rn rd imm => Sys2Proof.Machine.execStrtImm c u rn rd imm s
  | .strtReg c u rn rd amt sh rm => Sys2Proof.Machine.execStrtReg c u rn rd amt sh rm s
  | .strbtImm c u rn rd imm => Sys2Proof.Machine.execStrbtImm c u rn rd imm s
  | .strbtReg c u rn rd amt sh rm => Sys2Proof.Machine.execStrbtReg c u rn rd amt sh rm s
  | .ldrPcImm c ix u rn imm => Sys2Proof.Machine.execLdrPcImm c ix u rn imm s
  | .ldrPcReg c ix u rn amt sh rm => Sys2Proof.Machine.execLdrPcReg c ix u rn amt sh rm s
  | .ldrImm c ix u rn rd imm => Sys2Proof.Machine.execLdrImm c ix u rn rd imm s
  | .ldrReg c ix u rn rd amt sh rm => Sys2Proof.Machine.execLdrReg c ix u rn rd amt sh rm s
  | .ldrbImm c ix u rn rd imm => Sys2Proof.Machine.execLdrbImm c ix u rn rd imm s
  | .ldrbReg c ix u rn rd amt sh rm => Sys2Proof.Machine.execLdrbReg c ix u rn rd amt sh rm s
  | .strImm c ix u rn rd imm => Sys2Proof.Machine.execStrImm c ix u rn rd imm s
  | .strReg c ix u rn rd amt sh rm => Sys2Proof.Machine.execStrReg c ix u rn rd amt sh rm s
  | .strbImm c ix u rn rd imm => Sys2Proof.Machine.execStrbImm c ix u rn rd imm s
  | .strbReg c ix u rn rd amt sh rm => Sys2Proof.Machine.execStrbReg c ix u rn rd amt sh rm s
  | .ldm c am w rn list => Sys2Proof.Machine.execLdm c am w rn list s
  | .ldmPc c am w rn list => Sys2Proof.Machine.execLdmPc c am w rn list s
  | .ldmPcRet c am w rn list => Sys2Proof.Machine.execLdmPcRet c am w rn list s
  | .ldmUser c am rn list => Sys2Proof.Machine.execLdmUser c am rn list s
  | .stm c am w rn list => Sys2Proof.Machine.execStm c am w rn list s
  | .stmUser c am rn list => Sys2Proof.Machine.execStmUser c am rn list s
  | .b c imm => Sys2Proof.Machine.execB c imm s
  | .bl c imm => Sys2Proof.Machine.execBl c imm s
  | .ldcOff c u n w rn crd cp off => Sys2Proof.Machine.execLdcOff c u n w rn crd cp off s
  | .ldcPost c u n rn crd cp off => Sys2Proof.Machine.execLdcPost c u n rn crd cp off s
  | .ldcUnidx c n rn crd cp off => Sys2Proof.Machine.execLdcUnidx c n rn crd cp off s
  | .stcOff c u n w rn crd cp off => Sys2Proof.Machine.execStcOff c u n w rn crd cp off s
  | .stcPost c u n rn crd cp off => Sys2Proof.Machine.execStcPost c u n rn crd cp off s
  | .stcUnidx c n rn crd cp off => Sys2Proof.Machine.execStcUnidx c n rn crd cp off s
  | .cdp c op1 crn crd cp op2 crm => Sys2Proof.Machine.execCdp c op1 crn crd cp op2 crm s
  | .mrc c op1 crn rd cp op2 crm => Sys2Proof.Machine.execMrc c op1 crn rd cp op2 crm s
  | .mcr c op1 crn rd cp op2 crm => Sys2Proof.Machine.execMcr c op1 crn rd cp op2 crm s
  | .swi c imm => Sys2Proof.Machine.execSwi c imm s
  | .undefReg c hi lo => Sys2Proof.Machine.execUndefReg c hi lo s
  | .undefImm c b22 lo => Sys2Proof.Machine.execUndefImm c b22 lo s

end Sys2Proof.Machine
end

