-- ==== Sys2Proof/Machine/Step.lean ====
section
/-!
DEFINITION. Step.lean: one step of the machine (spec/10_state.md R27), and a program word placed where it fetches.
-/

namespace Sys2Proof.Machine

/-- One step (R27). -/
def step (s : State) : Host.Outcome State Fault Refusal := stepWith exec s

/-- The state with the table word `w` of `nbits` bits loaded at R15, where the next step fetches (log 12). -/
def State.withFetchWord (s : State) (nbits w : Nat) : State := s.loadAtPc (tableWord nbits w)

end Sys2Proof.Machine
end

