-- ==== Sys2Proof/Safety.lean ====
section
/-!
DEFINITION. Safety.lean: the words in which claims about the machine are made: what an instruction is (its condition, its
registers, its family), when it runs, what a state looks like after it, and what is true of every state that a run
reaches. Nothing here is used by the machine.
-/

namespace Sys2Proof

open Sys2Proof.Machine

/-! ## What an instruction is -/

/-- The condition of an instruction (R91); none for the unconditional forms (R115), BKPT and NOP. -/
def Instr.condition : Instr → Option Cond
  | .mul c .. | .mla c .. | .umull c .. | .umlal c .. | .smull c .. | .smlal c .. | .swp c .. | .swpb c ..
  | .ldrhImm c .. | .ldrhImmPost c .. | .ldrhReg c .. | .ldrhRegPost c .. | .ldrsbImm c .. | .ldrsbImmPost c ..
  | .ldrsbReg c .. | .ldrsbRegPost c .. | .ldrshImm c .. | .ldrshImmPost c .. | .ldrshReg c .. | .ldrshRegPost c ..
  | .strhImm c .. | .strhImmPost c .. | .strhReg c .. | .strhRegPost c .. | .mrsCpsr c .. | .mrsSpsr c ..
  | .msrCpsrReg c .. | .msrSpsrReg c .. | .msrCpsrImm c .. | .msrSpsrImm c .. | .bx c .. | .blxReg c .. | .clz c ..
  | .qadd c .. | .qsub c .. | .qdadd c .. | .qdsub c .. | .smlaxy c .. | .smlawy c .. | .smulwy c .. | .smlalxy c ..
  | .smulxy c .. | .andImm c .. | .andShift c .. | .andReg c .. | .eorImm c .. | .eorShift c .. | .eorReg c ..
  | .subImm c .. | .subShift c .. | .subReg c .. | .rsbImm c .. | .rsbShift c .. | .rsbReg c .. | .addImm c ..
  | .addShift c .. | .addReg c .. | .adcImm c .. | .adcShift c .. | .adcReg c .. | .sbcImm c .. | .sbcShift c ..
  | .sbcReg c .. | .rscImm c .. | .rscShift c .. | .rscReg c .. | .tstImm c .. | .tstShift c .. | .tstReg c ..
  | .teqImm c .. | .teqShift c .. | .teqReg c .. | .cmpImm c .. | .cmpShift c .. | .cmpReg c .. | .cmnImm c ..
  | .cmnShift c .. | .cmnReg c .. | .orrImm c .. | .orrShift c .. | .orrReg c .. | .movImm c .. | .movShift c ..
  | .movReg c .. | .bicImm c .. | .bicShift c .. | .bicReg c .. | .mvnImm c .. | .mvnShift c .. | .mvnReg c ..
  | .ldrtImm c .. | .ldrtReg c .. | .ldrbtImm c .. | .ldrbtReg c .. | .strtImm c .. | .strtReg c .. | .strbtImm c ..
  | .strbtReg c .. | .ldrPcImm c .. | .ldrPcReg c .. | .ldrImm c .. | .ldrReg c .. | .ldrbImm c .. | .ldrbReg c ..
  | .strImm c .. | .strReg c .. | .strbImm c .. | .strbReg c .. | .ldm c .. | .ldmPc c .. | .ldmPcRet c ..
  | .ldmUser c .. | .stm c .. | .stmUser c .. | .b c .. | .bl c .. | .ldcOff c .. | .ldcPost c .. | .ldcUnidx c ..
  | .stcOff c .. | .stcPost c .. | .stcUnidx c .. | .cdp c .. | .mrc c .. | .mcr c .. | .swi c .. | .undefReg c ..
  | .undefImm c .. => some c
  | .blxLabel .. | .ldc2Off .. | .ldc2Post .. | .ldc2Unidx .. | .stc2Off .. | .stc2Post .. | .stc2Unidx .. | .cdp2 ..
  | .mrc2 .. | .mcr2 .. | .bkpt .. | .nop => none

/-- The general registers that an instruction names as an operand or a destination, its register list among them; R14 for
the links of BL and BLX. R15 counts in a load to R15 and not in the lists of the forms of LDM that load R15. -/
def Instr.named : Instr → List Reg
  | .blxLabel .. | .bl .. => [14#4]
  | .ldc2Off _ _ _ rn _ _ _ | .ldc2Post _ _ rn _ _ _ | .ldc2Unidx _ rn _ _ _ | .stc2Off _ _ _ rn _ _ _
  | .stc2Post _ _ rn _ _ _ | .stc2Unidx _ rn _ _ _ | .tstImm _ rn _ _ | .teqImm _ rn _ _ | .cmpImm _ rn _ _
  | .cmnImm _ rn _ _ | .ldcOff _ _ _ _ rn _ _ _ | .ldcPost _ _ _ rn _ _ _ | .ldcUnidx _ _ rn _ _ _
  | .stcOff _ _ _ _ rn _ _ _ | .stcPost _ _ _ rn _ _ _ | .stcUnidx _ _ rn _ _ _ => [rn]
  | .cdp2 .. | .msrCpsrImm .. | .msrSpsrImm .. | .bkpt .. | .nop | .b .. | .cdp .. | .swi .. | .undefReg ..
  | .undefImm .. => []
  | .mrc2 _ _ rd _ _ _ | .mcr2 _ _ rd _ _ _ | .mrsCpsr _ rd | .mrsSpsr _ rd | .movImm _ _ rd _ _ | .mvnImm _ _ rd _ _
  | .mrc _ _ _ rd _ _ _ | .mcr _ _ _ rd _ _ _ => [rd]
  | .mul _ _ rd rs rm | .smulwy _ _ rd rs rm | .smulxy _ _ _ rd rs rm | .movReg _ _ rd rs _ rm
  | .mvnReg _ _ rd rs _ rm => [rd, rs, rm]
  | .mla _ _ rd rn rs rm | .smlaxy _ _ _ rd rn rs rm | .smlawy _ _ rd rn rs rm => [rd, rn, rs, rm]
  | .umull _ _ rdHi rdLo rs rm | .umlal _ _ rdHi rdLo rs rm | .smull _ _ rdHi rdLo rs rm | .smlal _ _ rdHi rdLo rs rm
  | .smlalxy _ _ _ rdHi rdLo rs rm => [rdHi, rdLo, rs, rm]
  | .swp _ rn rd rm | .swpb _ rn rd rm | .ldrhReg _ _ _ rn rd rm | .ldrhRegPost _ _ rn rd rm
  | .ldrsbReg _ _ _ rn rd rm | .ldrsbRegPost _ _ rn rd rm | .ldrshReg _ _ _ rn rd rm | .ldrshRegPost _ _ rn rd rm
  | .strhReg _ _ _ rn rd rm | .strhRegPost _ _ rn rd rm | .qadd _ rn rd rm | .qsub _ rn rd rm | .qdadd _ rn rd rm
  | .qdsub _ rn rd rm | .andShift _ _ rn rd _ _ rm | .eorShift _ _ rn rd _ _ rm | .subShift _ _ rn rd _ _ rm
  | .rsbShift _ _ rn rd _ _ rm | .addShift _ _ rn rd _ _ rm | .adcShift _ _ rn rd _ _ rm | .sbcShift _ _ rn rd _ _ rm
  | .rscShift _ _ rn rd _ _ rm | .orrShift _ _ rn rd _ _ rm | .bicShift _ _ rn rd _ _ rm | .ldrtReg _ _ rn rd _ _ rm
  | .ldrbtReg _ _ rn rd _ _ rm | .strtReg _ _ rn rd _ _ rm | .strbtReg _ _ rn rd _ _ rm | .ldrReg _ _ _ rn rd _ _ rm
  | .ldrbReg _ _ _ rn rd _ _ rm | .strReg _ _ _ rn rd _ _ rm | .strbReg _ _ _ rn rd _ _ rm => [rn, rd, rm]
  | .ldrhImm _ _ _ rn rd _ | .ldrhImmPost _ _ rn rd _ | .ldrsbImm _ _ _ rn rd _ | .ldrsbImmPost _ _ rn rd _
  | .ldrshImm _ _ _ rn rd _ | .ldrshImmPost _ _ rn rd _ | .strhImm _ _ _ rn rd _ | .strhImmPost _ _ rn rd _
  | .andImm _ _ rn rd _ _ | .eorImm _ _ rn rd _ _ | .subImm _ _ rn rd _ _ | .rsbImm _ _ rn rd _ _
  | .addImm _ _ rn rd _ _ | .adcImm _ _ rn rd _ _ | .sbcImm _ _ rn rd _ _ | .rscImm _ _ rn rd _ _
  | .orrImm _ _ rn rd _ _ | .bicImm _ _ rn rd _ _ | .ldrtImm _ _ rn rd _ | .ldrbtImm _ _ rn rd _
  | .strtImm _ _ rn rd _ | .strbtImm _ _ rn rd _ | .ldrImm _ _ _ rn rd _ | .ldrbImm _ _ _ rn rd _
  | .strImm _ _ _ rn rd _ | .strbImm _ _ _ rn rd _ => [rn, rd]
  | .msrCpsrReg _ _ rm | .msrSpsrReg _ _ rm | .bx _ rm => [rm]
  | .blxReg _ rm => [rm, 14#4]
  | .clz _ rd rm | .movShift _ _ rd _ _ rm | .mvnShift _ _ rd _ _ rm => [rd, rm]
  | .andReg _ _ rn rd rs _ rm | .eorReg _ _ rn rd rs _ rm | .subReg _ _ rn rd rs _ rm | .rsbReg _ _ rn rd rs _ rm
  | .addReg _ _ rn rd rs _ rm | .adcReg _ _ rn rd rs _ rm | .sbcReg _ _ rn rd rs _ rm | .rscReg _ _ rn rd rs _ rm
  | .orrReg _ _ rn rd rs _ rm | .bicReg _ _ rn rd rs _ rm => [rn, rd, rs, rm]
  | .tstShift _ rn _ _ rm | .teqShift _ rn _ _ rm | .cmpShift _ rn _ _ rm | .cmnShift _ rn _ _ rm => [rn, rm]
  | .tstReg _ rn rs _ rm | .teqReg _ rn rs _ rm | .cmpReg _ rn rs _ rm | .cmnReg _ rn rs _ rm => [rn, rs, rm]
  | .ldrPcImm _ _ _ rn _ => [rn, 15#4]
  | .ldrPcReg _ _ _ rn _ _ rm => [rn, 15#4, rm]
  | .ldm _ _ _ rn list | .ldmPc _ _ _ rn list | .ldmPcRet _ _ _ rn list | .ldmUser _ _ rn list | .stm _ _ _ rn list
  | .stmUser _ _ rn list => rn :: listRegs list

/-- The data-processing instructions of class logical that have a destination (R144). -/
inductive LogicalName where
  | and | eor | orr | bic | mov | mvn
deriving DecidableEq, Repr

/-- The instruction of a name; MOV and MVN have no Rn. -/
def LogicalName.instr (k : LogicalName) (c : Cond) (sf : Bool) (rn rd : Reg) (o : Operand2) : Instr :=
  match k, o with
  | .and, .imm rot imm => .andImm c sf rn rd rot imm
  | .and, .shift amt sh rm => .andShift c sf rn rd amt sh rm
  | .and, .reg rs sh rm => .andReg c sf rn rd rs sh rm
  | .eor, .imm rot imm => .eorImm c sf rn rd rot imm
  | .eor, .shift amt sh rm => .eorShift c sf rn rd amt sh rm
  | .eor, .reg rs sh rm => .eorReg c sf rn rd rs sh rm
  | .orr, .imm rot imm => .orrImm c sf rn rd rot imm
  | .orr, .shift amt sh rm => .orrShift c sf rn rd amt sh rm
  | .orr, .reg rs sh rm => .orrReg c sf rn rd rs sh rm
  | .bic, .imm rot imm => .bicImm c sf rn rd rot imm
  | .bic, .shift amt sh rm => .bicShift c sf rn rd amt sh rm
  | .bic, .reg rs sh rm => .bicReg c sf rn rd rs sh rm
  | .mov, .imm rot imm => .movImm c sf rd rot imm
  | .mov, .shift amt sh rm => .movShift c sf rd amt sh rm
  | .mov, .reg rs sh rm => .movReg c sf rd rs sh rm
  | .mvn, .imm rot imm => .mvnImm c sf rd rot imm
  | .mvn, .shift amt sh rm => .mvnShift c sf rd amt sh rm
  | .mvn, .reg rs sh rm => .mvnReg c sf rd rs sh rm

/-- The result of the two operands (R140, R141, R202 to R205). -/
def LogicalName.value (k : LogicalName) (a b : Word) : Word :=
  match k with
  | .and => a &&& b
  | .eor => a ^^^ b
  | .orr => a ||| b
  | .bic => a &&& ~~~b
  | .mov => b
  | .mvn => ~~~b

/-- The registers named: Rd, Rn (not by MOV and MVN) and those of Operand 2. -/
def LogicalName.named (k : LogicalName) (rn rd : Reg) (o : Operand2) : List Reg :=
  match k with
  | .and | .eor | .orr | .bic => rd :: rn :: operand2Regs o
  | .mov | .mvn => rd :: operand2Regs o

/-- The data-processing instructions of class arithmetic that have a destination (R144). -/
inductive ArithmeticName where
  | add | adc | sub | sbc | rsb | rsc
deriving DecidableEq, Repr

/-- The instruction of a name. -/
def ArithmeticName.instr (k : ArithmeticName) (c : Cond) (sf : Bool) (rn rd : Reg) (o : Operand2) : Instr :=
  match k, o with
  | .add, .imm rot imm => .addImm c sf rn rd rot imm
  | .add, .shift amt sh rm => .addShift c sf rn rd amt sh rm
  | .add, .reg rs sh rm => .addReg c sf rn rd rs sh rm
  | .adc, .imm rot imm => .adcImm c sf rn rd rot imm
  | .adc, .shift amt sh rm => .adcShift c sf rn rd amt sh rm
  | .adc, .reg rs sh rm => .adcReg c sf rn rd rs sh rm
  | .sub, .imm rot imm => .subImm c sf rn rd rot imm
  | .sub, .shift amt sh rm => .subShift c sf rn rd amt sh rm
  | .sub, .reg rs sh rm => .subReg c sf rn rd rs sh rm
  | .sbc, .imm rot imm => .sbcImm c sf rn rd rot imm
  | .sbc, .shift amt sh rm => .sbcShift c sf rn rd amt sh rm
  | .sbc, .reg rs sh rm => .sbcReg c sf rn rd rs sh rm
  | .rsb, .imm rot imm => .rsbImm c sf rn rd rot imm
  | .rsb, .shift amt sh rm => .rsbShift c sf rn rd amt sh rm
  | .rsb, .reg rs sh rm => .rsbReg c sf rn rd rs sh rm
  | .rsc, .imm rot imm => .rscImm c sf rn rd rot imm
  | .rsc, .shift amt sh rm => .rscShift c sf rn rd amt sh rm
  | .rsc, .reg rs sh rm => .rscReg c sf rn rd rs sh rm

/-- The card's action in exact integers (R162 to R167), with `c` the C flag. -/
def ArithmeticName.exact (k : ArithmeticName) (a b : Int) (c : Bool) : Int :=
  match k with
  | .add => a + b
  | .adc => a + b + c.toNat
  | .sub => a - b
  | .sbc => a - b - (1 - c.toNat)
  | .rsb => b - a
  | .rsc => b - a - (1 - c.toNat)

/-- The C that the action gives (R161): the carry out of a sum, no borrow of a difference. -/
def ArithmeticName.carry (k : ArithmeticName) (a b : Word) (c : Bool) : Bool :=
  match k with
  | .add | .adc => decide (2 ^ 32 ≤ k.exact a.toNat b.toNat c)
  | .sub | .sbc | .rsb | .rsc => decide (0 ≤ k.exact a.toNat b.toNat c)

/-- The V that the action gives (R161): the exact signed result is outside -2^31 to 2^31 - 1. -/
def ArithmeticName.overflow (k : ArithmeticName) (a b : Word) (c : Bool) : Bool :=
  decide (k.exact a.toInt b.toInt c < -(2 ^ 31) ∨ 2 ^ 31 - 1 < k.exact a.toInt b.toInt c)

/-- The twelve data-processing instructions with a destination. -/
inductive DpName where
  | logical (k : LogicalName)
  | arithmetic (k : ArithmeticName)
deriving DecidableEq, Repr

/-- The instruction of a name. -/
def DpName.instr (k : DpName) (c : Cond) (sf : Bool) (rn rd : Reg) (o : Operand2) : Instr :=
  match k with
  | .logical k => k.instr c sf rn rd o
  | .arithmetic k => k.instr c sf rn rd o

/-- The registers named. -/
def DpName.named (k : DpName) (rn rd : Reg) (o : Operand2) : List Reg :=
  match k with
  | .logical k => k.named rn rd o
  | .arithmetic _ => rd :: rn :: operand2Regs o

/-- The 32-bit result in a state: the action on Rn and Operand 2, the arithmetic ones modulo 2^32. -/
def DpName.result (k : DpName) (rn : Reg) (o : Operand2) (s : State) : Word :=
  match k with
  | .logical k => k.value (s.reg rn) (operand2Eval o s).1
  | .arithmetic k => BitVec.ofInt 32 (k.exact (s.reg rn).toInt (operand2Eval o s).1.toInt (Psr.c s.cpsr))

/-- The four data-processing instructions without a destination (R144). -/
inductive CompareName where
  | tst | teq | cmp | cmn
deriving DecidableEq, Repr

/-- The instruction of a name. -/
def CompareName.instr (k : CompareName) (c : Cond) (rn : Reg) (o : Operand2) : Instr :=
  match k, o with
  | .tst, .imm rot imm => .tstImm c rn rot imm
  | .tst, .shift amt sh rm => .tstShift c rn amt sh rm
  | .tst, .reg rs sh rm => .tstReg c rn rs sh rm
  | .teq, .imm rot imm => .teqImm c rn rot imm
  | .teq, .shift amt sh rm => .teqShift c rn amt sh rm
  | .teq, .reg rs sh rm => .teqReg c rn rs sh rm
  | .cmp, .imm rot imm => .cmpImm c rn rot imm
  | .cmp, .shift amt sh rm => .cmpShift c rn amt sh rm
  | .cmp, .reg rs sh rm => .cmpReg c rn rs sh rm
  | .cmn, .imm rot imm => .cmnImm c rn rot imm
  | .cmn, .shift amt sh rm => .cmnShift c rn amt sh rm
  | .cmn, .reg rs sh rm => .cmnReg c rn rs sh rm

/-! ### Kinds of instructions -/

/-- The instructions in which no operand may be R15: those that take general registers only (R142, R143, R168 to R171,
R180, R192, R301, R302). -/
def Instr.forbidsPc : Instr → Bool
  | .mul .. | .mla .. | .umull .. | .umlal .. | .smull .. | .smlal .. | .swp .. | .swpb .. | .mrsCpsr ..
  | .mrsSpsr .. | .clz .. | .qadd .. | .qsub .. | .qdadd .. | .qdsub .. | .smlaxy .. | .smlawy .. | .smulwy ..
  | .smlalxy .. | .smulxy .. => true
  | .blxLabel .. | .ldc2Off .. | .ldc2Post .. | .ldc2Unidx .. | .stc2Off .. | .stc2Post .. | .stc2Unidx .. | .cdp2 ..
  | .mrc2 .. | .mcr2 .. | .ldrhImm .. | .ldrhImmPost .. | .ldrhReg .. | .ldrhRegPost .. | .ldrsbImm ..
  | .ldrsbImmPost .. | .ldrsbReg .. | .ldrsbRegPost .. | .ldrshImm .. | .ldrshImmPost .. | .ldrshReg ..
  | .ldrshRegPost .. | .strhImm .. | .strhImmPost .. | .strhReg .. | .strhRegPost .. | .msrCpsrReg ..
  | .msrSpsrReg .. | .msrCpsrImm .. | .msrSpsrImm .. | .bx .. | .blxReg .. | .bkpt .. | .nop | .andImm ..
  | .andShift .. | .andReg .. | .eorImm .. | .eorShift .. | .eorReg .. | .subImm .. | .subShift .. | .subReg ..
  | .rsbImm .. | .rsbShift .. | .rsbReg .. | .addImm .. | .addShift .. | .addReg .. | .adcImm .. | .adcShift ..
  | .adcReg .. | .sbcImm .. | .sbcShift .. | .sbcReg .. | .rscImm .. | .rscShift .. | .rscReg .. | .tstImm ..
  | .tstShift .. | .tstReg .. | .teqImm .. | .teqShift .. | .teqReg .. | .cmpImm .. | .cmpShift .. | .cmpReg ..
  | .cmnImm .. | .cmnShift .. | .cmnReg .. | .orrImm .. | .orrShift .. | .orrReg .. | .movImm .. | .movShift ..
  | .movReg .. | .bicImm .. | .bicShift .. | .bicReg .. | .mvnImm .. | .mvnShift .. | .mvnReg .. | .ldrtImm ..
  | .ldrtReg .. | .ldrbtImm .. | .ldrbtReg .. | .strtImm .. | .strtReg .. | .strbtImm .. | .strbtReg ..
  | .ldrPcImm .. | .ldrPcReg .. | .ldrImm .. | .ldrReg .. | .ldrbImm .. | .ldrbReg .. | .strImm .. | .strReg ..
  | .strbImm .. | .strbReg .. | .ldm .. | .ldmPc .. | .ldmPcRet .. | .ldmUser .. | .stm .. | .stmUser .. | .b ..
  | .bl .. | .ldcOff .. | .ldcPost .. | .ldcUnidx .. | .stcOff .. | .stcPost .. | .stcUnidx .. | .cdp .. | .mrc ..
  | .mcr .. | .swi .. | .undefReg .. | .undefImm .. => false

/-- Two operands of the instruction are one register where they may not be (R180, R301, R302). -/
def Instr.clashes : Instr → Bool
  | .mul _ _ rd _ rm | .mla _ _ rd _ _ rm => rd == rm
  | .umull _ _ hi lo _ rm | .umlal _ _ hi lo _ rm | .smull _ _ hi lo _ rm | .smlal _ _ hi lo _ rm =>
    hi == lo || hi == rm || lo == rm
  | .smlalxy _ _ _ hi lo _ _ => hi == lo
  | .swp _ rn rd rm | .swpb _ rn rd rm => rn == rm || rn == rd
  | .blxLabel .. | .ldc2Off .. | .ldc2Post .. | .ldc2Unidx .. | .stc2Off .. | .stc2Post .. | .stc2Unidx .. | .cdp2 ..
  | .mrc2 .. | .mcr2 .. | .ldrhImm .. | .ldrhImmPost .. | .ldrhReg .. | .ldrhRegPost .. | .ldrsbImm ..
  | .ldrsbImmPost .. | .ldrsbReg .. | .ldrsbRegPost .. | .ldrshImm .. | .ldrshImmPost .. | .ldrshReg ..
  | .ldrshRegPost .. | .strhImm .. | .strhImmPost .. | .strhReg .. | .strhRegPost .. | .mrsCpsr .. | .mrsSpsr ..
  | .msrCpsrReg .. | .msrSpsrReg .. | .msrCpsrImm .. | .msrSpsrImm .. | .bx .. | .blxReg .. | .clz .. | .bkpt ..
  | .qadd .. | .qsub .. | .qdadd .. | .qdsub .. | .smlaxy .. | .smlawy .. | .smulwy .. | .smulxy .. | .nop
  | .andImm .. | .andShift .. | .andReg .. | .eorImm .. | .eorShift .. | .eorReg .. | .subImm .. | .subShift ..
  | .subReg .. | .rsbImm .. | .rsbShift .. | .rsbReg .. | .addImm .. | .addShift .. | .addReg .. | .adcImm ..
  | .adcShift .. | .adcReg .. | .sbcImm .. | .sbcShift .. | .sbcReg .. | .rscImm .. | .rscShift .. | .rscReg ..
  | .tstImm .. | .tstShift .. | .tstReg .. | .teqImm .. | .teqShift .. | .teqReg .. | .cmpImm .. | .cmpShift ..
  | .cmpReg .. | .cmnImm .. | .cmnShift .. | .cmnReg .. | .orrImm .. | .orrShift .. | .orrReg .. | .movImm ..
  | .movShift .. | .movReg .. | .bicImm .. | .bicShift .. | .bicReg .. | .mvnImm .. | .mvnShift .. | .mvnReg ..
  | .ldrtImm .. | .ldrtReg .. | .ldrbtImm .. | .ldrbtReg .. | .strtImm .. | .strtReg .. | .strbtImm .. | .strbtReg ..
  | .ldrPcImm .. | .ldrPcReg .. | .ldrImm .. | .ldrReg .. | .ldrbImm .. | .ldrbReg .. | .strImm .. | .strReg ..
  | .strbImm .. | .strbReg .. | .ldm .. | .ldmPc .. | .ldmPcRet .. | .ldmUser .. | .stm .. | .stmUser .. | .b ..
  | .bl .. | .ldcOff .. | .ldcPost .. | .ldcUnidx .. | .stcOff .. | .stcPost .. | .stcUnidx .. | .cdp .. | .mrc ..
  | .mcr .. | .swi .. | .undefReg .. | .undefImm .. => false

/-- The coprocessor that an instruction is offered to (R310); none for the others. -/
def Instr.coprocessor : Instr → Option (BitVec 4)
  | .ldc2Off _ _ _ _ _ cp _ | .ldc2Post _ _ _ _ cp _ | .ldc2Unidx _ _ _ cp _ | .stc2Off _ _ _ _ _ cp _
  | .stc2Post _ _ _ _ cp _ | .stc2Unidx _ _ _ cp _ | .cdp2 _ _ _ cp _ _ | .mrc2 _ _ _ cp _ _ | .mcr2 _ _ _ cp _ _
  | .ldcOff _ _ _ _ _ _ cp _ | .ldcPost _ _ _ _ _ cp _ | .ldcUnidx _ _ _ _ cp _ | .stcOff _ _ _ _ _ _ cp _
  | .stcPost _ _ _ _ _ cp _ | .stcUnidx _ _ _ _ cp _ | .cdp _ _ _ _ cp _ _ | .mrc _ _ _ _ cp _ _
  | .mcr _ _ _ _ cp _ _ => some cp
  | .blxLabel .. | .mul .. | .mla .. | .umull .. | .umlal .. | .smull .. | .smlal .. | .swp .. | .swpb ..
  | .ldrhImm .. | .ldrhImmPost .. | .ldrhReg .. | .ldrhRegPost .. | .ldrsbImm .. | .ldrsbImmPost .. | .ldrsbReg ..
  | .ldrsbRegPost .. | .ldrshImm .. | .ldrshImmPost .. | .ldrshReg .. | .ldrshRegPost .. | .strhImm ..
  | .strhImmPost .. | .strhReg .. | .strhRegPost .. | .mrsCpsr .. | .mrsSpsr .. | .msrCpsrReg .. | .msrSpsrReg ..
  | .msrCpsrImm .. | .msrSpsrImm .. | .bx .. | .blxReg .. | .clz .. | .bkpt .. | .qadd .. | .qsub .. | .qdadd ..
  | .qdsub .. | .smlaxy .. | .smlawy .. | .smulwy .. | .smlalxy .. | .smulxy .. | .nop | .andImm .. | .andShift ..
  | .andReg .. | .eorImm .. | .eorShift .. | .eorReg .. | .subImm .. | .subShift .. | .subReg .. | .rsbImm ..
  | .rsbShift .. | .rsbReg .. | .addImm .. | .addShift .. | .addReg .. | .adcImm .. | .adcShift .. | .adcReg ..
  | .sbcImm .. | .sbcShift .. | .sbcReg .. | .rscImm .. | .rscShift .. | .rscReg .. | .tstImm .. | .tstShift ..
  | .tstReg .. | .teqImm .. | .teqShift .. | .teqReg .. | .cmpImm .. | .cmpShift .. | .cmpReg .. | .cmnImm ..
  | .cmnShift .. | .cmnReg .. | .orrImm .. | .orrShift .. | .orrReg .. | .movImm .. | .movShift .. | .movReg ..
  | .bicImm .. | .bicShift .. | .bicReg .. | .mvnImm .. | .mvnShift .. | .mvnReg .. | .ldrtImm .. | .ldrtReg ..
  | .ldrbtImm .. | .ldrbtReg .. | .strtImm .. | .strtReg .. | .strbtImm .. | .strbtReg .. | .ldrPcImm ..
  | .ldrPcReg .. | .ldrImm .. | .ldrReg .. | .ldrbImm .. | .ldrbReg .. | .strImm .. | .strReg .. | .strbImm ..
  | .strbReg .. | .ldm .. | .ldmPc .. | .ldmPcRet .. | .ldmUser .. | .stm .. | .stmUser .. | .b .. | .bl .. | .swi ..
  | .undefReg .. | .undefImm .. => none

/-- The instruction restores the whole CPSR from the SPSR: data processing with S and Rd = R15 (R145), LDM with R15 and
`^` (R285). -/
def Instr.restoresCpsr : Instr → Bool
  | .andImm _ sf _ rd _ _ | .andShift _ sf _ rd _ _ _ | .andReg _ sf _ rd _ _ _ | .eorImm _ sf _ rd _ _
  | .eorShift _ sf _ rd _ _ _ | .eorReg _ sf _ rd _ _ _ | .subImm _ sf _ rd _ _ | .subShift _ sf _ rd _ _ _
  | .subReg _ sf _ rd _ _ _ | .rsbImm _ sf _ rd _ _ | .rsbShift _ sf _ rd _ _ _ | .rsbReg _ sf _ rd _ _ _
  | .addImm _ sf _ rd _ _ | .addShift _ sf _ rd _ _ _ | .addReg _ sf _ rd _ _ _ | .adcImm _ sf _ rd _ _
  | .adcShift _ sf _ rd _ _ _ | .adcReg _ sf _ rd _ _ _ | .sbcImm _ sf _ rd _ _ | .sbcShift _ sf _ rd _ _ _
  | .sbcReg _ sf _ rd _ _ _ | .rscImm _ sf _ rd _ _ | .rscShift _ sf _ rd _ _ _ | .rscReg _ sf _ rd _ _ _
  | .orrImm _ sf _ rd _ _ | .orrShift _ sf _ rd _ _ _ | .orrReg _ sf _ rd _ _ _ | .movImm _ sf rd _ _
  | .movShift _ sf rd _ _ _ | .movReg _ sf rd _ _ _ | .bicImm _ sf _ rd _ _ | .bicShift _ sf _ rd _ _ _
  | .bicReg _ sf _ rd _ _ _ | .mvnImm _ sf rd _ _ | .mvnShift _ sf rd _ _ _ | .mvnReg _ sf rd _ _ _ => sf && rd == 15#4
  | .ldmPcRet .. => true
  | .blxLabel .. | .ldc2Off .. | .ldc2Post .. | .ldc2Unidx .. | .stc2Off .. | .stc2Post .. | .stc2Unidx .. | .cdp2 ..
  | .mrc2 .. | .mcr2 .. | .mul .. | .mla .. | .umull .. | .umlal .. | .smull .. | .smlal .. | .swp .. | .swpb ..
  | .ldrhImm .. | .ldrhImmPost .. | .ldrhReg .. | .ldrhRegPost .. | .ldrsbImm .. | .ldrsbImmPost .. | .ldrsbReg ..
  | .ldrsbRegPost .. | .ldrshImm .. | .ldrshImmPost .. | .ldrshReg .. | .ldrshRegPost .. | .strhImm ..
  | .strhImmPost .. | .strhReg .. | .strhRegPost .. | .mrsCpsr .. | .mrsSpsr .. | .msrCpsrReg .. | .msrSpsrReg ..
  | .msrCpsrImm .. | .msrSpsrImm .. | .bx .. | .blxReg .. | .clz .. | .bkpt .. | .qadd .. | .qsub .. | .qdadd ..
  | .qdsub .. | .smlaxy .. | .smlawy .. | .smulwy .. | .smlalxy .. | .smulxy .. | .nop | .tstImm .. | .tstShift ..
  | .tstReg .. | .teqImm .. | .teqShift .. | .teqReg .. | .cmpImm .. | .cmpShift .. | .cmpReg .. | .cmnImm ..
  | .cmnShift .. | .cmnReg .. | .ldrtImm .. | .ldrtReg .. | .ldrbtImm .. | .ldrbtReg .. | .strtImm .. | .strtReg ..
  | .strbtImm .. | .strbtReg .. | .ldrPcImm .. | .ldrPcReg .. | .ldrImm .. | .ldrReg .. | .ldrbImm .. | .ldrbReg ..
  | .strImm .. | .strReg .. | .strbImm .. | .strbReg .. | .ldm .. | .ldmPc .. | .ldmUser .. | .stm .. | .stmUser ..
  | .b .. | .bl .. | .ldcOff .. | .ldcPost .. | .ldcUnidx .. | .stcOff .. | .stcPost .. | .stcUnidx .. | .cdp ..
  | .mrc .. | .mcr .. | .swi .. | .undefReg .. | .undefImm .. => false

/-- The instruction is one of those that write N, Z, C or V (R31): with S, a test or compare, an MSR to the CPSR with field
f, an MRC to R15 (R314), or one that restores the CPSR. -/
def Instr.writesFlags : Instr → Bool
  | .mul _ sf _ _ _ | .mla _ sf _ _ _ _ | .umull _ sf _ _ _ _ | .umlal _ sf _ _ _ _ | .smull _ sf _ _ _ _
  | .smlal _ sf _ _ _ _ | .andImm _ sf _ _ _ _ | .andShift _ sf _ _ _ _ _ | .andReg _ sf _ _ _ _ _
  | .eorImm _ sf _ _ _ _ | .eorShift _ sf _ _ _ _ _ | .eorReg _ sf _ _ _ _ _ | .subImm _ sf _ _ _ _
  | .subShift _ sf _ _ _ _ _ | .subReg _ sf _ _ _ _ _ | .rsbImm _ sf _ _ _ _ | .rsbShift _ sf _ _ _ _ _
  | .rsbReg _ sf _ _ _ _ _ | .addImm _ sf _ _ _ _ | .addShift _ sf _ _ _ _ _ | .addReg _ sf _ _ _ _ _
  | .adcImm _ sf _ _ _ _ | .adcShift _ sf _ _ _ _ _ | .adcReg _ sf _ _ _ _ _ | .sbcImm _ sf _ _ _ _
  | .sbcShift _ sf _ _ _ _ _ | .sbcReg _ sf _ _ _ _ _ | .rscImm _ sf _ _ _ _ | .rscShift _ sf _ _ _ _ _
  | .rscReg _ sf _ _ _ _ _ | .orrImm _ sf _ _ _ _ | .orrShift _ sf _ _ _ _ _ | .orrReg _ sf _ _ _ _ _
  | .movImm _ sf _ _ _ | .movShift _ sf _ _ _ _ | .movReg _ sf _ _ _ _ | .bicImm _ sf _ _ _ _
  | .bicShift _ sf _ _ _ _ _ | .bicReg _ sf _ _ _ _ _ | .mvnImm _ sf _ _ _ | .mvnShift _ sf _ _ _ _
  | .mvnReg _ sf _ _ _ _ => sf
  | .msrCpsrReg _ fields _ | .msrCpsrImm _ fields _ _ => fields.getLsbD 3
  | .mrc2 _ _ rd _ _ _ | .mrc _ _ _ rd _ _ _ => rd == 15#4
  | .tstImm .. | .tstShift .. | .tstReg .. | .teqImm .. | .teqShift .. | .teqReg .. | .cmpImm .. | .cmpShift ..
  | .cmpReg .. | .cmnImm .. | .cmnShift .. | .cmnReg .. | .ldmPcRet .. => true
  | .blxLabel .. | .ldc2Off .. | .ldc2Post .. | .ldc2Unidx .. | .stc2Off .. | .stc2Post .. | .stc2Unidx .. | .cdp2 ..
  | .mcr2 .. | .swp .. | .swpb .. | .ldrhImm .. | .ldrhImmPost .. | .ldrhReg .. | .ldrhRegPost .. | .ldrsbImm ..
  | .ldrsbImmPost .. | .ldrsbReg .. | .ldrsbRegPost .. | .ldrshImm .. | .ldrshImmPost .. | .ldrshReg ..
  | .ldrshRegPost .. | .strhImm .. | .strhImmPost .. | .strhReg .. | .strhRegPost .. | .mrsCpsr .. | .mrsSpsr ..
  | .msrSpsrReg .. | .msrSpsrImm .. | .bx .. | .blxReg .. | .clz .. | .bkpt .. | .qadd .. | .qsub .. | .qdadd ..
  | .qdsub .. | .smlaxy .. | .smlawy .. | .smulwy .. | .smlalxy .. | .smulxy .. | .nop | .ldrtImm .. | .ldrtReg ..
  | .ldrbtImm .. | .ldrbtReg .. | .strtImm .. | .strtReg .. | .strbtImm .. | .strbtReg .. | .ldrPcImm ..
  | .ldrPcReg .. | .ldrImm .. | .ldrReg .. | .ldrbImm .. | .ldrbReg .. | .strImm .. | .strReg .. | .strbImm ..
  | .strbReg .. | .ldm .. | .ldmPc .. | .ldmUser .. | .stm .. | .stmUser .. | .b .. | .bl .. | .ldcOff ..
  | .ldcPost .. | .ldcUnidx .. | .stcOff .. | .stcPost .. | .stcUnidx .. | .cdp .. | .mcr .. | .swi .. | .undefReg ..
  | .undefImm .. => false

/-- The instruction is one of those that can clear Q (R32): an MSR to the CPSR with field f, or one that restores the
CPSR. -/
def Instr.mayClearQ (i : Instr) : Bool :=
  match i with
  | .msrCpsrReg _ fields _ => fields.getLsbD 3
  | .msrCpsrImm _ fields _ _ => fields.getLsbD 3
  | i => i.restoresCpsr

/-- The instruction writes R15 by its own effect, so that it does not go on sequentially (R28): a branch, a data-processing
form with Rd = R15, a load to R15. -/
def Instr.writesPc : Instr → Bool
  | .andImm _ _ _ rd _ _ | .andShift _ _ _ rd _ _ _ | .andReg _ _ _ rd _ _ _ | .eorImm _ _ _ rd _ _
  | .eorShift _ _ _ rd _ _ _ | .eorReg _ _ _ rd _ _ _ | .subImm _ _ _ rd _ _ | .subShift _ _ _ rd _ _ _
  | .subReg _ _ _ rd _ _ _ | .rsbImm _ _ _ rd _ _ | .rsbShift _ _ _ rd _ _ _ | .rsbReg _ _ _ rd _ _ _
  | .addImm _ _ _ rd _ _ | .addShift _ _ _ rd _ _ _ | .addReg _ _ _ rd _ _ _ | .adcImm _ _ _ rd _ _
  | .adcShift _ _ _ rd _ _ _ | .adcReg _ _ _ rd _ _ _ | .sbcImm _ _ _ rd _ _ | .sbcShift _ _ _ rd _ _ _
  | .sbcReg _ _ _ rd _ _ _ | .rscImm _ _ _ rd _ _ | .rscShift _ _ _ rd _ _ _ | .rscReg _ _ _ rd _ _ _
  | .orrImm _ _ _ rd _ _ | .orrShift _ _ _ rd _ _ _ | .orrReg _ _ _ rd _ _ _ | .movImm _ _ rd _ _
  | .movShift _ _ rd _ _ _ | .movReg _ _ rd _ _ _ | .bicImm _ _ _ rd _ _ | .bicShift _ _ _ rd _ _ _
  | .bicReg _ _ _ rd _ _ _ | .mvnImm _ _ rd _ _ | .mvnShift _ _ rd _ _ _ | .mvnReg _ _ rd _ _ _ => rd == 15#4
  | .blxLabel .. | .bx .. | .blxReg .. | .ldrPcImm .. | .ldrPcReg .. | .ldmPc .. | .ldmPcRet .. | .b .. | .bl .. =>
    true
  | .ldc2Off .. | .ldc2Post .. | .ldc2Unidx .. | .stc2Off .. | .stc2Post .. | .stc2Unidx .. | .cdp2 .. | .mrc2 ..
  | .mcr2 .. | .mul .. | .mla .. | .umull .. | .umlal .. | .smull .. | .smlal .. | .swp .. | .swpb .. | .ldrhImm ..
  | .ldrhImmPost .. | .ldrhReg .. | .ldrhRegPost .. | .ldrsbImm .. | .ldrsbImmPost .. | .ldrsbReg ..
  | .ldrsbRegPost .. | .ldrshImm .. | .ldrshImmPost .. | .ldrshReg .. | .ldrshRegPost .. | .strhImm ..
  | .strhImmPost .. | .strhReg .. | .strhRegPost .. | .mrsCpsr .. | .mrsSpsr .. | .msrCpsrReg .. | .msrSpsrReg ..
  | .msrCpsrImm .. | .msrSpsrImm .. | .clz .. | .bkpt .. | .qadd .. | .qsub .. | .qdadd .. | .qdsub .. | .smlaxy ..
  | .smlawy .. | .smulwy .. | .smlalxy .. | .smulxy .. | .nop | .tstImm .. | .tstShift .. | .tstReg .. | .teqImm ..
  | .teqShift .. | .teqReg .. | .cmpImm .. | .cmpShift .. | .cmpReg .. | .cmnImm .. | .cmnShift .. | .cmnReg ..
  | .ldrtImm .. | .ldrtReg .. | .ldrbtImm .. | .ldrbtReg .. | .strtImm .. | .strtReg .. | .strbtImm .. | .strbtReg ..
  | .ldrImm .. | .ldrReg .. | .ldrbImm .. | .ldrbReg .. | .strImm .. | .strReg .. | .strbImm .. | .strbReg ..
  | .ldm .. | .ldmUser .. | .stm .. | .stmUser .. | .ldcOff .. | .ldcPost .. | .ldcUnidx .. | .stcOff ..
  | .stcPost .. | .stcUnidx .. | .cdp .. | .mrc .. | .mcr .. | .swi .. | .undefReg .. | .undefImm .. => false

/-- The operand of an MSR: a register or a rotated constant. -/
inductive MsrOperand where
  | reg (rm : Reg)
  | imm (rot : BitVec 4) (v : BitVec 8)
deriving DecidableEq, Repr

/-- MSR to the CPSR (R147, R149). -/
def MsrOperand.toCpsr (o : MsrOperand) (c : Cond) (fields : BitVec 4) : Instr :=
  match o with
  | .reg rm => .msrCpsrReg c fields rm
  | .imm rot v => .msrCpsrImm c fields rot v

/-- MSR to the SPSR (R148, R150). -/
def MsrOperand.toSpsr (o : MsrOperand) (c : Cond) (fields : BitVec 4) : Instr :=
  match o with
  | .reg rm => .msrSpsrReg c fields rm
  | .imm rot v => .msrSpsrImm c fields rot v

/-- The registers named. -/
def MsrOperand.named (o : MsrOperand) : List Reg :=
  match o with
  | .reg rm => [rm]
  | .imm _ _ => []

/-- The operand's value (R146). -/
def MsrOperand.value (o : MsrOperand) (s : State) : Word :=
  match o with
  | .reg rm => s.reg rm
  | .imm rot v => rotatedImm rot v

/-- `new` is `old` with the bits that `writable` selects taken from `operand` (R146). -/
def Merges (new old operand : Word) (writable : Nat → Bool) : Prop :=
  ∀ i, i < 32 → new.getLsbD i = if writable i then operand.getLsbD i else old.getLsbD i

/-- Whether an MSR to the CPSR may change bit `i` (R37, R39, R146): its byte is selected, and it is a flag or Q, or, in a
privileged mode, I, F or a mode bit. -/
def msrWritesCpsr (s : State) (fields : BitVec 4) (i : Nat) : Bool :=
  fields.getLsbD (i / 8) && (decide (27 ≤ i) || (s.privileged && decide (i < 8) && decide (i ≠ 5)))

/-- Whether an MSR to the SPSR may change bit `i` (R146): its byte is selected and it is not reserved. -/
def msrWritesSpsr (fields : BitVec 4) (i : Nat) : Bool := fields.getLsbD (i / 8) && (decide (27 ≤ i) || decide (i < 8))

/-- No selected reserved bit of the operand is 1 (R37, R146). -/
def msrReservedFree (fields : BitVec 4) (operand : Word) : Prop :=
  ∀ i, 8 ≤ i → i < 27 → fields.getLsbD (i / 8) = true → operand.getLsbD i = false

/-- A half of a register (R187): the top one when `top`. -/
def halfOf (v : Word) (top : Bool) : Half := if top then v.extractLsb' 16 16 else v.extractLsb' 0 16

end Sys2Proof

namespace Sys2Proof.Machine

/-- An LDC or STC: whether it loads, its index mode, sign (U), base, byte offset and coprocessor. -/
structure CpTransfer where
  load : Bool
  ix : IndexMode
  u : Bool
  rn : Reg
  off : Word
  cp : BitVec 4
deriving DecidableEq, Repr

/-- An LDM or STM: whether it loads, its condition, mode, `!`, base and list (bit 15 for R15); whether it transfers
User-mode registers, and whether it returns from an exception. -/
structure BlockTransfer where
  load : Bool
  c : Cond
  am : BlockMode
  w : Bool
  rn : Reg
  list : BitVec 16
  user : Bool
  ret : Bool
deriving DecidableEq, Repr

/-- A single-register load or store: its kind, condition, index mode, sign (U), base, Rd and offset. -/
structure Transfer where
  op : SingleOp
  c : Cond
  ix : IndexMode
  u : Bool
  rn : Reg
  rd : Reg
  off : Offset
deriving DecidableEq, Repr

end Sys2Proof.Machine

namespace Sys2Proof

open Sys2Proof.Machine

/-- The single-register loads and stores (R240, R250 to R262), with the addressing modes of their rows (R241 to R245). -/
def Instr.transfer : Instr → Option Transfer
  | .ldrhImm c u w rn rd imm => some ⟨.ldrh, c, (preMode w), u, rn, rd, .imm (imm.setWidth 32)⟩
  | .ldrhImmPost c u rn rd imm => some ⟨.ldrh, c, .post, u, rn, rd, .imm (imm.setWidth 32)⟩
  | .ldrhReg c u w rn rd rm => some ⟨.ldrh, c, (preMode w), u, rn, rd, plainReg rm⟩
  | .ldrhRegPost c u rn rd rm => some ⟨.ldrh, c, .post, u, rn, rd, plainReg rm⟩
  | .ldrsbImm c u w rn rd imm => some ⟨.ldrsb, c, (preMode w), u, rn, rd, .imm (imm.setWidth 32)⟩
  | .ldrsbImmPost c u rn rd imm => some ⟨.ldrsb, c, .post, u, rn, rd, .imm (imm.setWidth 32)⟩
  | .ldrsbReg c u w rn rd rm => some ⟨.ldrsb, c, (preMode w), u, rn, rd, plainReg rm⟩
  | .ldrsbRegPost c u rn rd rm => some ⟨.ldrsb, c, .post, u, rn, rd, plainReg rm⟩
  | .ldrshImm c u w rn rd imm => some ⟨.ldrsh, c, (preMode w), u, rn, rd, .imm (imm.setWidth 32)⟩
  | .ldrshImmPost c u rn rd imm => some ⟨.ldrsh, c, .post, u, rn, rd, .imm (imm.setWidth 32)⟩
  | .ldrshReg c u w rn rd rm => some ⟨.ldrsh, c, (preMode w), u, rn, rd, plainReg rm⟩
  | .ldrshRegPost c u rn rd rm => some ⟨.ldrsh, c, .post, u, rn, rd, plainReg rm⟩
  | .strhImm c u w rn rd imm => some ⟨.strh, c, (preMode w), u, rn, rd, .imm (imm.setWidth 32)⟩
  | .strhImmPost c u rn rd imm => some ⟨.strh, c, .post, u, rn, rd, .imm (imm.setWidth 32)⟩
  | .strhReg c u w rn rd rm => some ⟨.strh, c, (preMode w), u, rn, rd, plainReg rm⟩
  | .strhRegPost c u rn rd rm => some ⟨.strh, c, .post, u, rn, rd, plainReg rm⟩
  | .ldrtImm c u rn rd imm => some ⟨.ldrt, c, .post, u, rn, rd, .imm (imm.setWidth 32)⟩
  | .ldrtReg c u rn rd amt sh rm => some ⟨.ldrt, c, .post, u, rn, rd, .reg amt sh rm⟩
  | .ldrbtImm c u rn rd imm => some ⟨.ldrbt, c, .post, u, rn, rd, .imm (imm.setWidth 32)⟩
  | .ldrbtReg c u rn rd amt sh rm => some ⟨.ldrbt, c, .post, u, rn, rd, .reg amt sh rm⟩
  | .strtImm c u rn rd imm => some ⟨.strt, c, .post, u, rn, rd, .imm (imm.setWidth 32)⟩
  | .strtReg c u rn rd amt sh rm => some ⟨.strt, c, .post, u, rn, rd, .reg amt sh rm⟩
  | .strbtImm c u rn rd imm => some ⟨.strbt, c, .post, u, rn, rd, .imm (imm.setWidth 32)⟩
  | .strbtReg c u rn rd amt sh rm => some ⟨.strbt, c, .post, u, rn, rd, .reg amt sh rm⟩
  | .ldrPcImm c ix u rn imm => some ⟨.ldrPc, c, ix, u, rn, 15#4, .imm (imm.setWidth 32)⟩
  | .ldrPcReg c ix u rn amt sh rm => some ⟨.ldrPc, c, ix, u, rn, 15#4, .reg amt sh rm⟩
  | .ldrImm c ix u rn rd imm => some ⟨.ldr, c, ix, u, rn, rd, .imm (imm.setWidth 32)⟩
  | .ldrReg c ix u rn rd amt sh rm => some ⟨.ldr, c, ix, u, rn, rd, .reg amt sh rm⟩
  | .ldrbImm c ix u rn rd imm => some ⟨.ldrb, c, ix, u, rn, rd, .imm (imm.setWidth 32)⟩
  | .ldrbReg c ix u rn rd amt sh rm => some ⟨.ldrb, c, ix, u, rn, rd, .reg amt sh rm⟩
  | .strImm c ix u rn rd imm => some ⟨.str, c, ix, u, rn, rd, .imm (imm.setWidth 32)⟩
  | .strReg c ix u rn rd amt sh rm => some ⟨.str, c, ix, u, rn, rd, .reg amt sh rm⟩
  | .strbImm c ix u rn rd imm => some ⟨.strb, c, ix, u, rn, rd, .imm (imm.setWidth 32)⟩
  | .strbReg c ix u rn rd amt sh rm => some ⟨.strb, c, ix, u, rn, rd, .reg amt sh rm⟩
  | .blxLabel .. | .ldc2Off .. | .ldc2Post .. | .ldc2Unidx .. | .stc2Off .. | .stc2Post .. | .stc2Unidx .. | .cdp2 ..
  | .mrc2 .. | .mcr2 .. | .mul .. | .mla .. | .umull .. | .umlal .. | .smull .. | .smlal .. | .swp .. | .swpb ..
  | .mrsCpsr .. | .mrsSpsr .. | .msrCpsrReg .. | .msrSpsrReg .. | .msrCpsrImm .. | .msrSpsrImm .. | .bx ..
  | .blxReg .. | .clz .. | .bkpt .. | .qadd .. | .qsub .. | .qdadd .. | .qdsub .. | .smlaxy .. | .smlawy ..
  | .smulwy .. | .smlalxy .. | .smulxy .. | .nop | .andImm .. | .andShift .. | .andReg .. | .eorImm .. | .eorShift ..
  | .eorReg .. | .subImm .. | .subShift .. | .subReg .. | .rsbImm .. | .rsbShift .. | .rsbReg .. | .addImm ..
  | .addShift .. | .addReg .. | .adcImm .. | .adcShift .. | .adcReg .. | .sbcImm .. | .sbcShift .. | .sbcReg ..
  | .rscImm .. | .rscShift .. | .rscReg .. | .tstImm .. | .tstShift .. | .tstReg .. | .teqImm .. | .teqShift ..
  | .teqReg .. | .cmpImm .. | .cmpShift .. | .cmpReg .. | .cmnImm .. | .cmnShift .. | .cmnReg .. | .orrImm ..
  | .orrShift .. | .orrReg .. | .movImm .. | .movShift .. | .movReg .. | .bicImm .. | .bicShift .. | .bicReg ..
  | .mvnImm .. | .mvnShift .. | .mvnReg .. | .ldm .. | .ldmPc .. | .ldmPcRet .. | .ldmUser .. | .stm .. | .stmUser ..
  | .b .. | .bl .. | .ldcOff .. | .ldcPost .. | .ldcUnidx .. | .stcOff .. | .stcPost .. | .stcUnidx .. | .cdp ..
  | .mrc .. | .mcr .. | .swi .. | .undefReg .. | .undefImm .. => none

/-- The forms of LDM and STM (R282 to R287). -/
def Instr.blockTransfer : Instr → Option BlockTransfer
  | .ldm c am w rn list => some ⟨true, c, am, w, rn, 0b0#1 ++ list, false, false⟩
  | .ldmPc c am w rn list => some ⟨true, c, am, w, rn, 0b1#1 ++ list, false, false⟩
  | .ldmPcRet c am w rn list => some ⟨true, c, am, w, rn, 0b1#1 ++ list, false, true⟩
  | .ldmUser c am rn list => some ⟨true, c, am, false, rn, 0b0#1 ++ list, true, false⟩
  | .stm c am w rn list => some ⟨false, c, am, w, rn, list, false, false⟩
  | .stmUser c am rn list => some ⟨false, c, am, false, rn, list, true, false⟩
  | .blxLabel .. | .ldc2Off .. | .ldc2Post .. | .ldc2Unidx .. | .stc2Off .. | .stc2Post .. | .stc2Unidx .. | .cdp2 ..
  | .mrc2 .. | .mcr2 .. | .mul .. | .mla .. | .umull .. | .umlal .. | .smull .. | .smlal .. | .swp .. | .swpb ..
  | .ldrhImm .. | .ldrhImmPost .. | .ldrhReg .. | .ldrhRegPost .. | .ldrsbImm .. | .ldrsbImmPost .. | .ldrsbReg ..
  | .ldrsbRegPost .. | .ldrshImm .. | .ldrshImmPost .. | .ldrshReg .. | .ldrshRegPost .. | .strhImm ..
  | .strhImmPost .. | .strhReg .. | .strhRegPost .. | .mrsCpsr .. | .mrsSpsr .. | .msrCpsrReg .. | .msrSpsrReg ..
  | .msrCpsrImm .. | .msrSpsrImm .. | .bx .. | .blxReg .. | .clz .. | .bkpt .. | .qadd .. | .qsub .. | .qdadd ..
  | .qdsub .. | .smlaxy .. | .smlawy .. | .smulwy .. | .smlalxy .. | .smulxy .. | .nop | .andImm .. | .andShift ..
  | .andReg .. | .eorImm .. | .eorShift .. | .eorReg .. | .subImm .. | .subShift .. | .subReg .. | .rsbImm ..
  | .rsbShift .. | .rsbReg .. | .addImm .. | .addShift .. | .addReg .. | .adcImm .. | .adcShift .. | .adcReg ..
  | .sbcImm .. | .sbcShift .. | .sbcReg .. | .rscImm .. | .rscShift .. | .rscReg .. | .tstImm .. | .tstShift ..
  | .tstReg .. | .teqImm .. | .teqShift .. | .teqReg .. | .cmpImm .. | .cmpShift .. | .cmpReg .. | .cmnImm ..
  | .cmnShift .. | .cmnReg .. | .orrImm .. | .orrShift .. | .orrReg .. | .movImm .. | .movShift .. | .movReg ..
  | .bicImm .. | .bicShift .. | .bicReg .. | .mvnImm .. | .mvnShift .. | .mvnReg .. | .ldrtImm .. | .ldrtReg ..
  | .ldrbtImm .. | .ldrbtReg .. | .strtImm .. | .strtReg .. | .strbtImm .. | .strbtReg .. | .ldrPcImm ..
  | .ldrPcReg .. | .ldrImm .. | .ldrReg .. | .ldrbImm .. | .ldrbReg .. | .strImm .. | .strReg .. | .strbImm ..
  | .strbReg .. | .b .. | .bl .. | .ldcOff .. | .ldcPost .. | .ldcUnidx .. | .stcOff .. | .stcPost .. | .stcUnidx ..
  | .cdp .. | .mrc .. | .mcr .. | .swi .. | .undefReg .. | .undefImm .. => none

/-- The coprocessor loads and stores (R318 to R321), with the forms of addressing mode 5 (R322). -/
def Instr.cpTransfer : Instr → Option CpTransfer
  | .ldc2Off u _ w rn _ cp off => some ⟨true, preMode w, u, rn, cpOffset off, cp⟩
  | .ldc2Post u _ rn _ cp off => some ⟨true, .post, u, rn, cpOffset off, cp⟩
  | .ldc2Unidx _ rn _ cp _ => some ⟨true, .offset, true, rn, 0x00000000#32, cp⟩
  | .stc2Off u _ w rn _ cp off => some ⟨false, preMode w, u, rn, cpOffset off, cp⟩
  | .stc2Post u _ rn _ cp off => some ⟨false, .post, u, rn, cpOffset off, cp⟩
  | .stc2Unidx _ rn _ cp _ => some ⟨false, .offset, true, rn, 0x00000000#32, cp⟩
  | .ldcOff _ u _ w rn _ cp off => some ⟨true, preMode w, u, rn, cpOffset off, cp⟩
  | .ldcPost _ u _ rn _ cp off => some ⟨true, .post, u, rn, cpOffset off, cp⟩
  | .ldcUnidx _ _ rn _ cp _ => some ⟨true, .offset, true, rn, 0x00000000#32, cp⟩
  | .stcOff _ u _ w rn _ cp off => some ⟨false, preMode w, u, rn, cpOffset off, cp⟩
  | .stcPost _ u _ rn _ cp off => some ⟨false, .post, u, rn, cpOffset off, cp⟩
  | .stcUnidx _ _ rn _ cp _ => some ⟨false, .offset, true, rn, 0x00000000#32, cp⟩
  | .blxLabel .. | .cdp2 .. | .mrc2 .. | .mcr2 .. | .mul .. | .mla .. | .umull .. | .umlal .. | .smull .. | .smlal ..
  | .swp .. | .swpb .. | .ldrhImm .. | .ldrhImmPost .. | .ldrhReg .. | .ldrhRegPost .. | .ldrsbImm ..
  | .ldrsbImmPost .. | .ldrsbReg .. | .ldrsbRegPost .. | .ldrshImm .. | .ldrshImmPost .. | .ldrshReg ..
  | .ldrshRegPost .. | .strhImm .. | .strhImmPost .. | .strhReg .. | .strhRegPost .. | .mrsCpsr .. | .mrsSpsr ..
  | .msrCpsrReg .. | .msrSpsrReg .. | .msrCpsrImm .. | .msrSpsrImm .. | .bx .. | .blxReg .. | .clz .. | .bkpt ..
  | .qadd .. | .qsub .. | .qdadd .. | .qdsub .. | .smlaxy .. | .smlawy .. | .smulwy .. | .smlalxy .. | .smulxy ..
  | .nop | .andImm .. | .andShift .. | .andReg .. | .eorImm .. | .eorShift .. | .eorReg .. | .subImm ..
  | .subShift .. | .subReg .. | .rsbImm .. | .rsbShift .. | .rsbReg .. | .addImm .. | .addShift .. | .addReg ..
  | .adcImm .. | .adcShift .. | .adcReg .. | .sbcImm .. | .sbcShift .. | .sbcReg .. | .rscImm .. | .rscShift ..
  | .rscReg .. | .tstImm .. | .tstShift .. | .tstReg .. | .teqImm .. | .teqShift .. | .teqReg .. | .cmpImm ..
  | .cmpShift .. | .cmpReg .. | .cmnImm .. | .cmnShift .. | .cmnReg .. | .orrImm .. | .orrShift .. | .orrReg ..
  | .movImm .. | .movShift .. | .movReg .. | .bicImm .. | .bicShift .. | .bicReg .. | .mvnImm .. | .mvnShift ..
  | .mvnReg .. | .ldrtImm .. | .ldrtReg .. | .ldrbtImm .. | .ldrbtReg .. | .strtImm .. | .strtReg .. | .strbtImm ..
  | .strbtReg .. | .ldrPcImm .. | .ldrPcReg .. | .ldrImm .. | .ldrReg .. | .ldrbImm .. | .ldrbReg .. | .strImm ..
  | .strReg .. | .strbImm .. | .strbReg .. | .ldm .. | .ldmPc .. | .ldmPcRet .. | .ldmUser .. | .stm .. | .stmUser ..
  | .b .. | .bl .. | .cdp .. | .mrc .. | .mcr .. | .swi .. | .undefReg .. | .undefImm .. => none

end Sys2Proof

namespace Sys2Proof.Machine

/-! ## When an instruction runs -/

/-- Whether an instruction may name these registers now: right after a user-register transfer none of them may be banked
in the current mode (R403). -/
def State.mayName (s : State) (named : List Reg) : Bool := !(s.userXfer && named.any (fun r => s.bank.isBanked r))

/-- Whether the instruction after this one is not past the end of the address space (R28). -/
def State.hasNext (s : State) : Bool := decide (s.pc.toNat + 4 < 2 ^ 32)

/-- Whether a conditional instruction that names these registers performs its rule. -/
def State.starts (s : State) (c : Cond) (named : List Reg) : Bool := condHolds c s.cpsr && s.mayName named

/-- Whether a conditional instruction that names these registers performs its rule and can go on to the next one. -/
def State.runs (s : State) (c : Cond) (named : List Reg) : Bool := s.starts c named && s.hasNext

/-- Whether a data access succeeds: aligned, in `MEM_MAP`, not aborted (R66, R67). -/
def State.canAccess (s : State) (z : Size) (a : Word) (kind : AccessKind) (privileged : Bool) : Bool :=
  z.aligned a && s.inMap z a && !s.abortsAt z a kind privileged

/-- Whether each of `n` word accesses from `a` upward succeeds. -/
def State.canAccessWords (s : State) (kind : AccessKind) (a : Word) (n : Nat) : Bool :=
  (List.range n).all fun j => s.canAccess .word (a + blockBytes j) kind s.privileged

/-! ## What a state looks like afterwards -/

/-- The state after an instruction with no other effect: R15 is 4 higher, and the instruction was no user-register
transfer (R27, R403). -/
def State.advanced (s : State) : State := { s with pc := s.pc + 4#32, userXfer := false }

/-- The physical registers with register `r` of the current mode written (R23); for `r` other than R15. -/
def State.gprWith (s : State) (r : Reg) (v : Word) : Vector Word 30 := s.gpr.set (s.bank.index r) v

/-- The state after an instruction whose only results are register `r` and the CPSR. -/
def State.wrote (s : State) (r : Reg) (v cpsr : Word) : State := { s.advanced with gpr := s.gprWith r v, cpsr := cpsr }

/-- The state after an instruction whose only results are the 64-bit value of the pair `hi : lo` and the CPSR. -/
def State.wrotePair (s : State) (hi lo : Reg) (v : BitVec 64) (cpsr : Word) : State :=
  { s.advanced with
    gpr := (s.gprWith hi (v.extractLsb' 32 32)).set (s.bank.index lo) (v.extractLsb' 0 32), cpsr := cpsr }

/-- The N, Z, C and V of a 32-bit result in a CPSR, or the CPSR unchanged without the S suffix (R31). -/
def flagsIf (sf : Bool) (p result : Word) (c v : Bool) : Word :=
  if sf then Psr.withNZCV p (result.getLsbD 31) (decide (result = 0#32)) c v else p

/-- The N and Z of a 64-bit result in a CPSR, or the CPSR unchanged without the S suffix (R193). -/
def flagsIf64 (sf : Bool) (p : Word) (result : BitVec 64) : Word :=
  if sf then Psr.withNZCV p (result.getLsbD 63) (decide (result = 0#64)) (Psr.c p) (Psr.v p) else p

/-- An exact integer clamped to 32 signed bits (R160). -/
def clamp (x : Int) : Int := max (-(2 ^ 31)) (min (2 ^ 31 - 1) x)

/-- Q set in a CPSR when an exact integer is outside 32 signed bits, else the CPSR unchanged (R32, R160). -/
def qIf (p : Word) (x : Int) : Word := if x < -(2 ^ 31) ∨ 2 ^ 31 - 1 < x then Psr.withQ p true else p

/-! ## Single-register loads and stores -/

/-- The base plus or minus the offset (R240). -/
def Transfer.index (t : Transfer) (s : State) : Word :=
  if t.u then s.reg t.rn + offsetValue t.off s else s.reg t.rn - offsetValue t.off s

/-- The address of the transfer (R240): the base for a post-indexed form, else the index. -/
def Transfer.address (t : Transfer) (s : State) : Word := if t.ix = .post then s.reg t.rn else t.index s

/-- The registers named. -/
def Transfer.named (t : Transfer) : List Reg := t.rn :: t.rd :: (offsetReg t.off).toList

/-- The general registers after the writeback, if the form has one (R240). -/
def Transfer.baseWritten (t : Transfer) (s : State) : Vector Word 30 :=
  if t.ix = .offset then s.gpr else s.gprWith t.rn (t.index s)

/-- Whether the register restrictions of R246 are met. -/
def Transfer.allowed (t : Transfer) : Bool :=
  (t.ix == .offset || (t.rn != 15#4 && t.rd != t.rn && offsetReg t.off != some t.rn)) && offsetReg t.off != some 15#4
    && (t.rd != 15#4 || t.op == .str || t.op == .ldrPc)

/-- The value that a load writes to Rd (R69), from the bytes at the address, lowest first. -/
def SingleOp.loaded (op : SingleOp) (b : Nat → Byte) : Word :=
  match op with
  | .ldrb | .ldrbt | .strb | .strbt => (b 0).setWidth 32
  | .ldrsb => (b 0).signExtend 32
  | .ldrh | .strh => (b 1 ++ b 0).setWidth 32
  | .ldrsh => (b 1 ++ b 0).signExtend 32
  | .ldr | .ldrt | .ldrPc | .str | .strt => b 3 ++ b 2 ++ b 1 ++ b 0

/-- The state with the bytes of `v` stored at `a`, little-endian (R62, R67), and recorded as written (R77). -/
def State.afterStore (s : State) (z : Size) (a v : Word) : State :=
  { s with mem := s.mem.store z a v, written := s.written.markAll (accessBytes z a) }

/-! ## Blocks of words -/

/-- How many registers of a list have a smaller number than `r`: the place of `r`'s word in the block (R280). -/
def listRank {n : Nat} (list : BitVec n) (r : Reg) : Nat :=
  ((List.range r.toNat).filter fun k => list.getLsbD k).length

/-- The number of registers in a list. -/
def listCount {n : Nat} (list : BitVec n) : Nat := (listRegs list).length

/-- The bytes of the `n` words from `a` upward. -/
def blockByteAddrs (a : Word) (n : Nat) : List Nat :=
  (List.range n).flatMap fun j => accessBytes .word (a + blockBytes j)

/-- Register by register, what the block loads of LDM leave in the registers of bank `b`, in which bank the listed ones
are loaded: the listed registers hold the words of the block at `start`, and every other physical register its value in
`g` (R282). -/
def State.BlockLoaded {n : Nat} (s : State) (b : Bank) (list : BitVec n) (start : Word) (g g' : Vector Word 30) :
    Prop :=
  (∀ r : Reg, r.toNat < 15 → list.getLsbD r.toNat = true →
      g'[b.index r] = s.mem.load .word (start + blockBytes (listRank list r)))
    ∧ ∀ i : Fin 30, (∀ r : Reg, r.toNat < 15 → list.getLsbD r.toNat = true → b.index r ≠ i) → g'[i] = g[i]

/-- What the block stores of STM leave in memory: word number `j` of the block at `start` is `word j`, every byte outside
the block is as before, and the bytes of the block count as written (R286, R67, R77). -/
def State.BlockStored (s t : State) (start : Word) (n : Nat) (word : Nat → Word) : Prop :=
  (∀ j, j < n → t.mem.load .word (start + blockBytes j) = word j)
    ∧ (∀ a, a ∉ blockByteAddrs start n → t.mem.get a = s.mem.get a)
    ∧ ∀ a, t.written.has a = (s.written.has a || (blockByteAddrs start n).contains a)

/-- Whether the restrictions of R288 on the base and on the mode are met. -/
def BlockTransfer.allowed (b : BlockTransfer) (s : State) : Prop :=
  b.rn ≠ 15#4 ∧ (b.w = true → b.list.getLsbD b.rn.toNat = true → b.load = false ∧ listRank b.list b.rn = 0)
    ∧ (b.user = true ∨ b.ret = true → s.bank ≠ .usr)

/-- The lowest address of the block (R280). -/
def BlockTransfer.start (b : BlockTransfer) (s : State) : Word := blockStart b.am (s.reg b.rn) (listCount b.list)

/-- The bank whose registers are transferred (R284, R287). -/
def BlockTransfer.bank (b : BlockTransfer) (s : State) : Bank := if b.user then .usr else s.bank

/-- The general registers with what `ABORT_BASE` says in the base register (R80; log 8). -/
def BlockTransfer.abortBase (b : BlockTransfer) (s : State) : Vector Word 30 :=
  if b.w && Config.abortBaseUpdated then s.gprWith b.rn (blockFinal b.am (s.reg b.rn) (listCount b.list)) else s.gpr

/-- Register by register, what a load that aborts at word `j` leaves (R80; logs 8, 9): the base register is as
`ABORT_BASE` says; the listed registers of rank below `j` that are not the base hold their words of the block; every
other physical register is as it was. -/
def BlockTransfer.LoadedUpTo (b : BlockTransfer) (s : State) (j : Nat) (g : Vector Word 30) : Prop :=
  g[s.bank.index b.rn] = (b.abortBase s)[s.bank.index b.rn]
    ∧ ∀ i : Fin 30, i ≠ s.bank.index b.rn →
      (∀ r : Reg, r.toNat < 15 → b.list.getLsbD r.toNat = true → listRank b.list r < j → (b.bank s).index r = i →
          g[i] = s.mem.load .word (b.start s + blockBytes (listRank b.list r)))
        ∧ ((∀ r : Reg, r.toNat < 15 → b.list.getLsbD r.toNat = true → listRank b.list r < j → (b.bank s).index r ≠ i) →
          g[i] = s.gpr[i])

/-! ## Coprocessor transfers -/

/-- The state of coprocessor `p` after it received the `k` words at `a` (R318). -/
def State.ldcState (s : State) (p : BitVec 4) (bits a : Word) (k : Nat) : Nat :=
  (List.range k).foldl (fun st j => Config.cpLdcWord p bits j (s.mem.load .word (a + blockBytes j)) st) (s.cp p)

/-- The base afterwards in a form of addressing mode 5 (R322). -/
def State.cpBase (s : State) (ix : IndexMode) (u : Bool) (rn : Reg) (off : Word) : Vector Word 30 :=
  if ix = .offset then s.gpr else s.gprWith rn (if u then s.reg rn + off else s.reg rn - off)

/-- The start address of a form of addressing mode 5 (R322). -/
def State.cpStart (s : State) (ix : IndexMode) (u : Bool) (rn : Reg) (off : Word) : Word :=
  if ix = .post then s.reg rn else if u then s.reg rn + off else s.reg rn - off

/-! ## What is true of every state that a run reaches -/

/-- A program status register as the instructions leave it: the bits that are not allocated are 0 (R37). -/
abbrev Psr.clean (p : Word) : Prop := Psr.reserved p = 0#19

/-- The invariant of the machine: the mode is one of the seven (R36); the reserved bits of the CPSR and of the five SPSRs
are 0 (R37); in ARM state R15 is a multiple of 4 (R27); memory and the set of written bytes are in canonical form; a
user-register transfer is remembered only in a mode that has an SPSR (R288 (e), R403). -/
structure State.Inv (s : State) : Prop where
  mode : Psr.legalMode (Psr.mode s.cpsr) = true
  cpsr : Psr.clean s.cpsr
  fiq : Psr.clean s.spsr.fiq
  irq : Psr.clean s.spsr.irq
  svc : Psr.clean s.spsr.svc
  abt : Psr.clean s.spsr.abt
  und : Psr.clean s.spsr.und
  aligned : Psr.t s.cpsr = false → wordAligned s.pc = true
  mem : Memory.wf s.mem = true
  written : AddrSet.wf s.written = true
  transfer : s.userXfer = true → s.bank ≠ .usr

end Sys2Proof.Machine
end

