-- ==== Sys2Proof/Certificates/Slice0/Obligations.lean ====
section
/-!
DEFINITION. Obligations.lean: the statements about the machine, in the words of Safety.lean. OBLIGATIONS.json lists them
with the rules of spec/ they formalise. A hypothesis `runs`, `starts` or `mayName` says that the condition passes, that
no banked register is named right after a user-register transfer (R403) and, for `runs`, that the next instruction is not
past the end of the address space (R28); `advanced`, `wrote` and `withUserXfer false` say what else may change: R15 and
that memory of a user-register transfer. Every result is an equation between whole states, so it is its own frame.
Where a rule says `refuse`, the refusal's name and the order in which several are tried are the model's (logs 13, 19).
-/

open Sys2Proof Sys2Proof.Machine

/-! ## Reset, the invariant, the step -/

/-- R45, R391: what the spec gives the machine at reset: Supervisor mode, ARM state, both interrupts disabled, reserved
bits 0, R15 at the reset vector, no coprocessor. Nothing is said of the registers, flags and SPSRs that the spec leaves
unspecified (log 1). -/
def Obligations.ResetState : Prop :=
  State.reset.cpsr &&& 0x07FFFFFF#32 = 0x000000D3#32 ∧ State.reset.bank = .svc ∧ State.reset.privileged = true
    ∧ Psr.i State.reset.cpsr = true ∧ Psr.f State.reset.cpsr = true ∧ Psr.t State.reset.cpsr = false
    ∧ Psr.reserved State.reset.cpsr = 0#19 ∧ State.reset.pc = 0x00000000#32
    ∧ ∀ p : Fin 16, State.reset.coprocs[p] = false

/-- The state after reset meets the invariant (R27, R36, R37, R45). -/
def Obligations.ResetMeetsInvariant : Prop := State.reset.Inv

/-- Every step keeps the invariant, from every state that meets it: a legal mode (R36), reserved PSR bits 0 (R37), R15 a
multiple of 4 in ARM state (R27), canonical memory,
a user-register transfer remembered only in a mode with an SPSR (R288, R403). -/
def Obligations.StepKeepsInvariant : Prop := ∀ s t : State, s.Inv → step s = .next t → t.Inv

/-- R27: when no interrupt is taken, the state is ARM state and the fetch is allowed (R68), a step at a word that
decodes to `i` is `i`'s execution, the boundary's line sample consumed. The word is the four bytes at R15, lowest
address least significant (R63). -/
def Obligations.StepRunsDecodedInstruction : Prop :=
  ∀ (s : State) (i : Instr), s.interrupt = none → Psr.t s.cpsr = false →
    s.abortsAt .word s.pc .fetch s.privileged = false → s.inMap .word s.pc = true →
    (∀ a ∈ accessBytes .word s.pc, s.written.has a = false) → decode (s.mem.load .word s.pc) = .ok i →
    step s = exec i { s with lines := s.lines.tail }

/-- R347 (a), (b): before it fetches, a step takes FIQ when its line is 1 and F = 0; else IRQ when its line is 1 and
I = 0; with both masked or both lines 0, none. -/
def Obligations.InterruptsAtInstructionBoundary : Prop :=
  ∀ (s : State) (l : LineSample) (rest : List LineSample), s.lines = l :: rest →
    (l.fiq = true → Psr.f s.cpsr = false → step s = .next (takeException .fiq { s with lines := rest }))
      ∧ (l.irq = true → Psr.i s.cpsr = false → (l.fiq = false ∨ Psr.f s.cpsr = true) →
        step s = .next (takeException .irq { s with lines := rest }))
      ∧ ((l.fiq = false ∨ Psr.f s.cpsr = true) → (l.irq = false ∨ Psr.i s.cpsr = true) → s.interrupt = none)

/-- R27 steps 2 to 4, R68, R345, R112, R114: where no interrupt is taken, Thumb state is refused; in ARM state an
aborted fetch takes the Prefetch Abort whatever the word is, a fetch outside `MEM_MAP` ends the run, one of a byte that
the program has written is refused, and so is a word that does not decode. -/
def Obligations.FetchFailuresByName : Prop :=
  ∀ s : State, s.interrupt = none →
    (Psr.t s.cpsr = true → step s = .refused .thumbState)
      ∧ (Psr.t s.cpsr = false →
        (s.abortsAt .word s.pc .fetch s.privileged = true →
            step s = .next (takeException .prefetchAbort { s with lines := s.lines.tail }))
          ∧ (s.abortsAt .word s.pc .fetch s.privileged = false →
            (s.inMap .word s.pc = false → step s = .fault (.outsideMemMap s.pc))
              ∧ (s.inMap .word s.pc = true →
                (∀ a ∈ accessBytes .word s.pc, s.written.has a = true → step s = .refused .modifiedCode)
                  ∧ ((∀ a ∈ accessBytes .word s.pc, s.written.has a = false) →
                    ∀ e, decode (s.mem.load .word s.pc) = .error e → step s = .refused (.undecodable e)))))

/-! ## Encoding -/

/-- Decoding the encoding of a well-formed instruction gives it back, every field at every value (R100 to R115, R129).
-/
def Obligations.DecodeOfEncode : Prop := ∀ i : Instr, i.wf = true → decode (encode i) = .ok i

/-- A word that decodes is the encoding of the instruction it decodes to, which is well formed: no bit is dropped and no
two words are read as one instruction. -/
def Obligations.EncodeOfDecode : Prop := ∀ (w : Word) (i : Instr), decode w = .ok i → encode i = w ∧ i.wf = true

/-- Words that the spec writes out, with the instructions it gives for them (R140, R164, R181, R206, R220, R250, R283,
R301, R312, R330, R331, R223). -/
def Obligations.DecodesWordsOfTheSpec : Prop :=
  decode 0xE1A00000#32 = .ok .nop
    ∧ decode 0xE3B004FF#32 = .ok (.movImm .al true 0#4 4#4 0xFF#8)
    ∧ decode 0xE25EF004#32 = .ok (.subImm .al true 14#4 15#4 0#4 4#8)
    ∧ decode 0xE0000291#32 = .ok (.mul .al false 0#4 2#4 1#4)
    ∧ decode 0x1A000002#32 = .ok (.b .ne 2#24)
    ∧ decode 0xFA0003FE#32 = .ok (.blxLabel false 0x3FE#24)
    ∧ decode 0xE7B10102#32 = .ok (.ldrReg .al .pre true 1#4 0#4 2#5 .lsl 2#4)
    ∧ decode 0xE8BD8010#32 = .ok (.ldmPc .al .ia true 13#4 0x0010#15)
    ∧ decode 0xE1020091#32 = .ok (.swp .al 2#4 0#4 1#4)
    ∧ decode 0xEE1327A4#32 = .ok (.cdp .al 1#4 3#4 2#4 7#4 5#3 4#4)
    ∧ decode 0xEF123456#32 = .ok (.swi .al 0x123456#24)
    ∧ decode 0xE12ABC7D#32 = .ok (.bkpt 0xABCD#16)

/-! ## Registers and exceptions -/

/-- R29: which physical register a mode's register number is. For legal modes and numbers 0 to 14 two of them are one
physical register exactly when the numbers are equal and: below R8 always; R8 to R12 when both modes or neither are FIQ;
R13 and R14 when the modes are equal or both are USER or System. And which SPSR each mode has. -/
def Obligations.BankedRegisterTable : Prop :=
  (∀ (m m' : BitVec 5) (r r' : Reg), Psr.legalMode m = true → Psr.legalMode m' = true → r ≠ 15#4 → r' ≠ 15#4 →
      ((Bank.ofMode m).index r = (Bank.ofMode m').index r' ↔
        r = r' ∧ (r.toNat < 8 ∨ (r.toNat < 13 ∧ (m = 0b10001#5 ↔ m' = 0b10001#5)) ∨ m = m'
          ∨ ((m = 0b10000#5 ∨ m = 0b11111#5) ∧ (m' = 0b10000#5 ∨ m' = 0b11111#5)))))
    ∧ ∀ p : Spsrs,
      [0b10000#5, 0b10001#5, 0b10010#5, 0b10011#5, 0b10111#5, 0b11011#5, 0b11111#5].map
          (fun m => p.get (Bank.ofMode m))
        = [none, some p.fiq, some p.irq, some p.svc, some p.abt, some p.und, none]

/-- R340, R350: taking an exception saves the return link in R14 of the mode entered and the whole CPSR in its SPSR,
enters the mode and the vector of the table, sets I, sets F for FIQ only, clears T, keeps the upper 24 bits of the CPSR,
and changes no other register, no SPSR of another mode, no memory and no coprocessor. -/
def Obligations.ExceptionEntry : Prop :=
  (∀ (e : Exc) (s : State),
    (takeException e s).gpr
        = s.gpr.set (e.bank.index 14#4) (s.pc + if e = .dataAbort then 8#32 else 4#32)
      ∧ (takeException e s).spsr.get e.bank = some s.cpsr
      ∧ (∀ b : Bank, b ≠ e.bank → (takeException e s).spsr.get b = s.spsr.get b)
      ∧ Psr.mode (takeException e s).cpsr = e.mode ∧ (takeException e s).bank = e.bank
      ∧ Psr.t (takeException e s).cpsr = false ∧ Psr.i (takeException e s).cpsr = true
      ∧ Psr.f (takeException e s).cpsr = (decide (e = .fiq) || Psr.f s.cpsr)
      ∧ (takeException e s).cpsr.extractLsb' 8 24 = s.cpsr.extractLsb' 8 24
      ∧ (takeException e s).pc = e.vector
      ∧ (takeException e s).mem = s.mem ∧ (takeException e s).written = s.written
      ∧ (takeException e s).memMap = s.memMap ∧ (takeException e s).aborts = s.aborts
      ∧ (takeException e s).coprocs = s.coprocs ∧ (takeException e s).cpState = s.cpState
      ∧ (takeException e s).lines = s.lines)
    ∧ [Exc.undefined, .swi, .prefetchAbort, .dataAbort, .irq, .fiq].map (fun e => (e.mode, e.vector))
        = [(0b11011#5, 0x04#32), (0b10011#5, 0x08#32), (0b10111#5, 0x0C#32), (0b10111#5, 0x10#32),
          (0b10010#5, 0x18#32), (0b10001#5, 0x1C#32)]

/-- R352, its table: from the first instruction of a handler, `MOVS R15, R14` resumes after a software interrupt or an
undefined instruction, `SUBS R15, R14, #4` at the interrupted or prefetch-aborted instruction, `SUBS R15, R14, #8` at
the data-aborted one; the CPSR, and with it the mode, is the one before the exception, and nothing else changes. -/
def Obligations.ReturnUndoesEntry : Prop :=
  ∀ (e : Exc) (s : State), Psr.legalMode (Psr.mode s.cpsr) = true → Psr.t s.cpsr = false → wordAligned s.pc = true →
    exec
        (match e with
        | .undefined | .swi => .movShift .al true 15#4 0#5 .lsl 14#4
        | .prefetchAbort | .irq | .fiq => .subImm .al true 14#4 15#4 0#4 4#8
        | .dataAbort => .subImm .al true 14#4 15#4 0#4 8#8)
        (takeException e s)
      = .next { takeException e s with
          cpsr := s.cpsr
          pc := match e with
            | .undefined | .swi => s.pc + 4#32
            | .prefetchAbort | .irq | .fiq | .dataAbort => s.pc }

/-! ## Operand 2 -/

/-- R94: the immediate form of Operand 2: the 8-bit constant rotated right by twice the rotation field, bit by bit; the
carry-out is C for a field of 0, else bit 31 of the value; and the rule's example. -/
def Obligations.ImmediateOperand : Prop :=
  (∀ (rot : BitVec 4) (imm : BitVec 8) (s : State),
    (∀ i, i < 32 → (operand2Eval (.imm rot imm) s).1.getLsbD i = (imm.setWidth 32).getLsbD ((i + 2 * rot.toNat) % 32))
      ∧ (operand2Eval (.imm rot imm) s).2
        = if rot = 0#4 then Psr.c s.cpsr else (operand2Eval (.imm rot imm) s).1.getLsbD 31)
    ∧ ∀ s : State, operand2Eval (.imm 4#4 0xFF#8) s = (0xFF000000#32, true)

/-- R95: a register shifted left by an immediate from 0 to 31: the value modulo 2^32, the carry-out the last bit shifted
out; by 0, the plain register, carry-out C; and the rule's example. -/
def Obligations.ShiftLeftByImmediate : Prop :=
  (∀ (amt : BitVec 5) (rm : Reg) (s : State),
    (operand2Eval (.shift amt .lsl rm) s).1.toNat = (s.reg rm).toNat * 2 ^ amt.toNat % 2 ^ 32
      ∧ (operand2Eval (.shift amt .lsl rm) s).2
        = if amt = 0#5 then Psr.c s.cpsr else (s.reg rm).getLsbD (32 - amt.toNat))
    ∧ ∀ c : Bool, shiftByImm .lsl 1#5 0x80000001#32 c = (0x00000002#32, true)

/-- R96: LSR, ASR and ROR by an immediate: a field of 0 means 32 for LSR and ASR; LSR is the floor of the unsigned
quotient, ASR of the signed one, ROR moves bit `i + n` to bit `i`. -/
def Obligations.ShiftRightByImmediate : Prop :=
  (∀ (amt : BitVec 5) (rm : Reg) (s : State) (n : Nat), n = (if amt = 0#5 then 32 else amt.toNat) →
    (operand2Eval (.shift amt .lsr rm) s).1.toNat = (s.reg rm).toNat / 2 ^ n
      ∧ (operand2Eval (.shift amt .lsr rm) s).2 = (s.reg rm).getLsbD (n - 1)
      ∧ (operand2Eval (.shift amt .asr rm) s).1.toInt = (s.reg rm).toInt / 2 ^ n
      ∧ (operand2Eval (.shift amt .asr rm) s).2 = (s.reg rm).getLsbD (n - 1)
      ∧ (amt ≠ 0#5 →
        (∀ i, i < 32 → (operand2Eval (.shift amt .ror rm) s).1.getLsbD i = (s.reg rm).getLsbD ((i + n) % 32))
          ∧ (operand2Eval (.shift amt .ror rm) s).2 = (s.reg rm).getLsbD (n - 1)))
    ∧ ∀ c : Bool, shiftByImm .lsr 1#5 0x80000003#32 c = (0x40000001#32, true)
      ∧ shiftByImm .asr 1#5 0x80000003#32 c = (0xC0000001#32, true)
      ∧ shiftByImm .ror 1#5 0x80000003#32 c = (0xC0000001#32, true)
      ∧ shiftByImm .lsr 0#5 0x80000003#32 c = (0x00000000#32, true)
      ∧ shiftByImm .asr 0#5 0x80000003#32 c = (0xFFFFFFFF#32, true)

/-- R97: RRX, the rotation of 33 bits through C: each bit moves down by one, the old C enters at bit 31, bit 0 is the
carry-out; and the rule's examples. -/
def Obligations.RotateRightExtended : Prop :=
  (∀ (rm : Reg) (s : State),
    (∀ i, i < 31 → (operand2Eval (.shift 0#5 .ror rm) s).1.getLsbD i = (s.reg rm).getLsbD (i + 1))
      ∧ (operand2Eval (.shift 0#5 .ror rm) s).1.getLsbD 31 = Psr.c s.cpsr
      ∧ (operand2Eval (.shift 0#5 .ror rm) s).2 = (s.reg rm).getLsbD 0)
    ∧ shiftByImm .ror 0#5 0x00000003#32 false = (0x00000001#32, true)
    ∧ (shiftByImm .ror 0#5 0x00000003#32 true).1 = 0x80000001#32

/-- R98: the register-shift forms, by `n`, the low byte of Rs, from 0 to 255: by 0 the register with carry-out C; else LSL
is the product by 2^n modulo 2^32, LSR the floor of the unsigned quotient, ASR of the signed one, ROR moves bit `i + n`
modulo 32 to bit `i`; the carry-out is the last bit shifted out (0 for LSL and LSR beyond 32); and the rule's example. -/
def Obligations.ShiftByRegister : Prop :=
  (∀ (rs rm : Reg) (s : State) (n : Nat), n = (s.reg rs).toNat % 256 →
    (∀ sh : ShiftKind, n = 0 → operand2Eval (.reg rs sh rm) s = (s.reg rm, Psr.c s.cpsr))
      ∧ (n ≠ 0 →
        (operand2Eval (.reg rs .lsl rm) s).1.toNat = (s.reg rm).toNat * 2 ^ n % 2 ^ 32
          ∧ (operand2Eval (.reg rs .lsl rm) s).2 = (decide (n ≤ 32) && (s.reg rm).getLsbD (32 - n))
          ∧ (operand2Eval (.reg rs .lsr rm) s).1.toNat = (s.reg rm).toNat / 2 ^ n
          ∧ (operand2Eval (.reg rs .lsr rm) s).2 = (s.reg rm).getLsbD (n - 1)
          ∧ (operand2Eval (.reg rs .asr rm) s).1.toInt = (s.reg rm).toInt / 2 ^ n
          ∧ (operand2Eval (.reg rs .asr rm) s).2 = (s.reg rm).getLsbD (min n 32 - 1)
          ∧ (∀ i, i < 32 → (operand2Eval (.reg rs .ror rm) s).1.getLsbD i = (s.reg rm).getLsbD ((i + n) % 32))
          ∧ (operand2Eval (.reg rs .ror rm) s).2 = (s.reg rm).getLsbD ((n + 31) % 32)))
    ∧ ∀ c : Bool, shiftByReg .lsl ((0x00000104#32 : Word).toNat % 256) 0x000000F0#32 c = (0x00000F00#32, false)

/-- R99, R25: R15 reads as the address of the instruction plus 8, also as Rm of an immediate shift; a register-shift
form that names R15 in any place is refused, in all sixteen data-processing instructions. -/
def Obligations.PcInOperandTwo : Prop :=
  (∀ s : State, s.reg 15#4 = s.pc + 8#32)
    ∧ (∀ (amt : BitVec 5) (sh : ShiftKind) (s : State),
      operand2Eval (.shift amt sh 15#4) s = shiftByImm sh amt (s.pc + 8#32) (Psr.c s.cpsr))
    ∧ (∀ (k : DpName) (c : Cond) (sf : Bool) (rn rd rs : Reg) (sh : ShiftKind) (rm : Reg) (s : State),
      s.starts c (k.named rn rd (.reg rs sh rm)) = true → 15#4 ∈ k.named rn rd (.reg rs sh rm) →
      exec (k.instr c sf rn rd (.reg rs sh rm)) s = .refused .pcOperand)
    ∧ ∀ (k : CompareName) (c : Cond) (rn rs : Reg) (sh : ShiftKind) (rm : Reg) (s : State),
      s.starts c [rn, rs, rm] = true → 15#4 ∈ [rn, rs, rm] →
      exec (k.instr c rn (.reg rs sh rm)) s = .refused .pcOperand

/-! ## Data processing -/

/-- R140, R141, R144, R202 to R205: AND, EOR, ORR, BIC, MOV and MVN (eighteen forms) to a register other than R15: Rd is
the bitwise result; with S, N and Z come from it, C is the shifter carry-out, V is unchanged; nothing else changes. -/
def Obligations.LogicalResults : Prop :=
  ∀ (k : LogicalName) (c : Cond) (sf : Bool) (rn rd : Reg) (o : Operand2) (s : State),
    s.runs c (k.named rn rd o) = true → namesPc (k.named rn rd o) o = false → rd ≠ 15#4 →
    exec (k.instr c sf rn rd o) s =
      .next (s.wrote rd (k.value (s.reg rn) (operand2Eval o s).1)
        (flagsIf sf s.cpsr (k.value (s.reg rn) (operand2Eval o s).1) (operand2Eval o s).2 (Psr.v s.cpsr)))

/-- R161 to R167: ADD, ADC, SUB, SBC, RSB and RSC (eighteen forms) to a register other than R15: Rd is the card's action
in exact integers modulo 2^32; with S, C is the carry of the exact unsigned sum or the absence of a borrow, V says that
the exact signed result does not fit; nothing else changes. -/
def Obligations.ArithmeticResults : Prop :=
  ∀ (k : ArithmeticName) (c : Cond) (sf : Bool) (rn rd : Reg) (o : Operand2) (s : State) (a b r : Word) (cin : Bool),
    s.runs c (rd :: rn :: operand2Regs o) = true → namesPc (rd :: rn :: operand2Regs o) o = false → rd ≠ 15#4 →
    a = s.reg rn → b = (operand2Eval o s).1 → cin = Psr.c s.cpsr → r = BitVec.ofInt 32 (k.exact a.toInt b.toInt cin) →
    exec (k.instr c sf rn rd o) s
      = .next (s.wrote rd r (flagsIf sf s.cpsr r (k.carry a b cin) (k.overflow a b cin)))

/-- R200, R201, R208, R209: TST, TEQ, CMP and CMN (twelve forms) write N, Z, C and, for CMP and CMN, V, and nothing else
but R15. -/
def Obligations.TestAndCompareFlags : Prop :=
  ∀ (c : Cond) (rn : Reg) (o : Operand2) (s : State) (a b : Word) (carry : Bool),
    s.runs c (rn :: operand2Regs o) = true → namesPc (rn :: operand2Regs o) o = false →
    a = s.reg rn → (b, carry) = operand2Eval o s →
    exec (CompareName.tst.instr c rn o) s
        = .next { s.advanced with cpsr := flagsIf true s.cpsr (a &&& b) carry (Psr.v s.cpsr) }
      ∧ exec (CompareName.teq.instr c rn o) s
        = .next { s.advanced with cpsr := flagsIf true s.cpsr (a ^^^ b) carry (Psr.v s.cpsr) }
      ∧ exec (CompareName.cmp.instr c rn o) s
        = .next { s.advanced with
            cpsr := flagsIf true s.cpsr (a - b) (ArithmeticName.sub.carry a b false)
              (ArithmeticName.sub.overflow a b false) }
      ∧ exec (CompareName.cmn.instr c rn o) s
        = .next { s.advanced with
            cpsr := flagsIf true s.cpsr (a + b) (ArithmeticName.add.carry a b false)
              (ArithmeticName.add.overflow a b false) }

/-- R91, R208: after `CMP Rn, <Oprnd2>` the conditions are the relations of their names between Rn and Operand 2. -/
def Obligations.ConditionsAfterCompare : Prop :=
  ∀ (c : Cond) (rn : Reg) (o : Operand2) (s t : State) (a b : Word), a = s.reg rn → b = (operand2Eval o s).1 →
    condHolds c s.cpsr = true → exec (CompareName.cmp.instr c rn o) s = .next t →
    condHolds .eq t.cpsr = decide (a = b) ∧ condHolds .ne t.cpsr = decide (a ≠ b)
      ∧ condHolds .cs t.cpsr = decide (b.toNat ≤ a.toNat) ∧ condHolds .cc t.cpsr = decide (a.toNat < b.toNat)
      ∧ condHolds .hi t.cpsr = decide (b.toNat < a.toNat) ∧ condHolds .ls t.cpsr = decide (a.toNat ≤ b.toNat)
      ∧ condHolds .ge t.cpsr = decide (b.toInt ≤ a.toInt) ∧ condHolds .lt t.cpsr = decide (a.toInt < b.toInt)
      ∧ condHolds .gt t.cpsr = decide (b.toInt < a.toInt) ∧ condHolds .le t.cpsr = decide (a.toInt ≤ b.toInt)
      ∧ condHolds .mi t.cpsr = (a - b).getLsbD 31 ∧ condHolds .pl t.cpsr = !(a - b).getLsbD 31
      ∧ condHolds .vs t.cpsr = decide ((a - b).toInt ≠ a.toInt - b.toInt)
      ∧ condHolds .vc t.cpsr = decide ((a - b).toInt = a.toInt - b.toInt) ∧ condHolds .al t.cpsr = true

/-- R26, R144: a data-processing instruction without S that writes R15 is a branch to its result, refused when the
result is not a multiple of 4; no flag and no other register changes. -/
def Obligations.DataProcessingToPcBranches : Prop :=
  ∀ (k : DpName) (c : Cond) (rn : Reg) (o : Operand2) (s : State),
    s.starts c (k.named rn 15#4 o) = true → operand2IsRegShift o = false →
    exec (k.instr c false rn 15#4 o) s =
      if (k.result rn o s).toNat % 4 = 0 then .next { s with pc := k.result rn o s, userXfer := false }
      else .refused .misalignedBranch

/-- R145: a data-processing instruction with S that writes R15 restores the CPSR from the SPSR of the mode and branches
to its result: refused without an SPSR, with an illegal saved mode, and to a result that is not a multiple of 4 when
the restored T is 0; when it is 1, bit 0 is cleared. The flags are not set from the result. -/
def Obligations.DataProcessingReturns : Prop :=
  ∀ (k : DpName) (c : Cond) (rn : Reg) (o : Operand2) (s : State),
    s.starts c (k.named rn 15#4 o) = true → operand2IsRegShift o = false →
    (s.spsr.get s.bank = none → exec (k.instr c true rn 15#4 o) s = .refused .noSpsr)
      ∧ ∀ saved, s.spsr.get s.bank = some saved →
        (Psr.legalMode (Psr.mode saved) = false → exec (k.instr c true rn 15#4 o) s = .refused .illegalMode)
          ∧ (Psr.legalMode (Psr.mode saved) = true → saved.getLsbD 5 = false → (k.result rn o s).toNat % 4 = 0 →
            exec (k.instr c true rn 15#4 o) s
              = .next { s with cpsr := saved, pc := k.result rn o s, userXfer := false })
          ∧ (Psr.legalMode (Psr.mode saved) = true → saved.getLsbD 5 = false → (k.result rn o s).toNat % 4 ≠ 0 →
            exec (k.instr c true rn 15#4 o) s = .refused .misalignedBranch)
          ∧ (Psr.legalMode (Psr.mode saved) = true → saved.getLsbD 5 = true →
            exec (k.instr c true rn 15#4 o) s
              = .next { s with
                  cpsr := saved, pc := (k.result rn o s).extractLsb' 1 31 ++ 0b0#1, userXfer := false })

/-- R27 step 5, R28: an instruction whose condition fails changes nothing but R15, which goes to the next instruction;
at the end of the address space it is refused. Every conditional instruction. -/
def Obligations.FailedConditionOnlyAdvances : Prop :=
  ∀ (i : Instr) (c : Cond) (s : State), i.condition = some c → condHolds c s.cpsr = false →
    exec i s = if s.pc.toNat + 4 < 2 ^ 32 then .next s.advanced else .refused .sequentialWrap

/-- R206: NOP changes nothing but R15, in every state; its word is that of `MOV R0, R0`. -/
def Obligations.NopOnlyAdvances : Prop :=
  (∀ s : State, s.hasNext = true → exec .nop s = .next s.advanced)
    ∧ decode 0xE1A00000#32 = .ok .nop ∧ encode (.movShift .al false 0#4 0#5 .lsl 0#4) = 0xE1A00000#32

/-- R168 to R171: QADD, QSUB, QDADD and QDSUB: the exact result clamped to 32 signed bits, Q set when a clamping changed
it (of QDADD and QDSUB also that of the doubling), N, Z, C, V and everything else unchanged. -/
def Obligations.SaturatingResults : Prop :=
  ∀ (c : Cond) (rn rd rm : Reg) (s : State) (a b d : Int),
    s.runs c [rn, rd, rm] = true → rn ≠ 15#4 → rd ≠ 15#4 → rm ≠ 15#4 →
    a = (s.reg rm).toInt → b = (s.reg rn).toInt → d = clamp (2 * b) →
    exec (.qadd c rn rd rm) s = .next (s.wrote rd (BitVec.ofInt 32 (clamp (a + b))) (qIf s.cpsr (a + b)))
      ∧ exec (.qsub c rn rd rm) s = .next (s.wrote rd (BitVec.ofInt 32 (clamp (a - b))) (qIf s.cpsr (a - b)))
      ∧ exec (.qdadd c rn rd rm) s
        = .next (s.wrote rd (BitVec.ofInt 32 (clamp (a + d))) (qIf (qIf s.cpsr (2 * b)) (a + d)))
      ∧ exec (.qdsub c rn rd rm) s
        = .next (s.wrote rd (BitVec.ofInt 32 (clamp (a - d))) (qIf (qIf s.cpsr (2 * b)) (a - d)))

/-! ## Multiplies -/

/-- R181, R182, R193: MUL and MLA: the low 32 bits of the product and of the sum; with S, N and Z, C and V unchanged.
MUL names no Rn: its clause is meant with `rn := rd`. -/
def Obligations.MultiplyResults : Prop :=
  ∀ (c : Cond) (sf : Bool) (rd rn rs rm : Reg) (s : State) (p q : Word),
    s.runs c [rd, rn, rs, rm] = true → rd ≠ 15#4 → rn ≠ 15#4 → rs ≠ 15#4 → rm ≠ 15#4 → rd ≠ rm →
    p = s.reg rm * s.reg rs → q = s.reg rm * s.reg rs + s.reg rn →
    exec (.mul c sf rd rs rm) s = .next (s.wrote rd p (flagsIf sf s.cpsr p (Psr.c s.cpsr) (Psr.v s.cpsr)))
      ∧ exec (.mla c sf rd rn rs rm) s = .next (s.wrote rd q (flagsIf sf s.cpsr q (Psr.c s.cpsr) (Psr.v s.cpsr)))

/-- R183 to R186, R191, R193: UMULL, UMLAL, SMULL, SMLAL and SMLALxy: the 64-bit product or sum in RdHi and RdLo; with
S, N and Z of the 64 bits, C and V unchanged; Q never. -/
def Obligations.LongMultiplyResults : Prop :=
  ∀ (c : Cond) (sf x y : Bool) (hi lo rs rm : Reg) (s : State) (acc : BitVec 64),
    s.runs c [hi, lo, rs, rm] = true → hi ≠ 15#4 → lo ≠ 15#4 → rs ≠ 15#4 → rm ≠ 15#4 → hi ≠ lo →
    acc = s.reg hi ++ s.reg lo →
    (hi ≠ rm → lo ≠ rm →
        (∀ p : BitVec 64, p = (s.reg rm).setWidth 64 * (s.reg rs).setWidth 64 →
            exec (.umull c sf hi lo rs rm) s = .next (s.wrotePair hi lo p (flagsIf64 sf s.cpsr p))
              ∧ exec (.umlal c sf hi lo rs rm) s
                = .next (s.wrotePair hi lo (acc + p) (flagsIf64 sf s.cpsr (acc + p))))
          ∧ ∀ p : BitVec 64, p = (s.reg rm).signExtend 64 * (s.reg rs).signExtend 64 →
            exec (.smull c sf hi lo rs rm) s = .next (s.wrotePair hi lo p (flagsIf64 sf s.cpsr p))
              ∧ exec (.smlal c sf hi lo rs rm) s
                = .next (s.wrotePair hi lo (acc + p) (flagsIf64 sf s.cpsr (acc + p))))
      ∧ exec (.smlalxy c x y hi lo rs rm) s
        = .next (s.wrotePair hi lo
            (acc + (halfOf (s.reg rm) x).signExtend 64 * (halfOf (s.reg rs) y).signExtend 64) s.cpsr)

/-- R187 to R190: SMULxy, SMULWy, SMLAxy and SMLAWy: the product of signed halves, or bits 47:16 of the product of a
word and a half; the accumulating ones wrap and set Q when the exact sum does not fit; no other flag changes. SMULxy
and SMULWy name no Rn: their clauses are meant with `rn := rd`. -/
def Obligations.HalfMultiplyResults : Prop :=
  ∀ (c : Cond) (x y : Bool) (rd rn rs rm : Reg) (s : State) (p q : Word),
    s.runs c [rd, rn, rs, rm] = true → rd ≠ 15#4 → rn ≠ 15#4 → rs ≠ 15#4 → rm ≠ 15#4 →
    p = (halfOf (s.reg rm) x).signExtend 32 * (halfOf (s.reg rs) y).signExtend 32 →
    q = ((s.reg rm).signExtend 48 * (halfOf (s.reg rs) y).signExtend 48).extractLsb' 16 32 →
    exec (.smulxy c x y rd rs rm) s = .next (s.wrote rd p s.cpsr)
      ∧ exec (.smulwy c y rd rs rm) s = .next (s.wrote rd q s.cpsr)
      ∧ exec (.smlaxy c x y rd rn rs rm) s
        = .next (s.wrote rd (s.reg rn + p)
            (qIf s.cpsr ((s.reg rn).toInt + (halfOf (s.reg rm) x).toInt * (halfOf (s.reg rs) y).toInt)))
      ∧ exec (.smlawy c y rd rn rs rm) s
        = .next (s.wrote rd (s.reg rn + q) (qIf s.cpsr ((s.reg rn).toInt + q.toInt)))

/-- R192: CLZ: Rd is a number `n` from 0 to 32 such that the `n` top bits of Rm are 0 and, for `n` below 32, the next
one is 1; no flag changes. -/
def Obligations.CountLeadingZeros : Prop :=
  ∀ (c : Cond) (rd rm : Reg) (s : State), s.runs c [rd, rm] = true → rd ≠ 15#4 → rm ≠ 15#4 →
    ∃ n : Nat, n ≤ 32 ∧ (∀ j, j < n → (s.reg rm).getLsbD (31 - j) = false)
      ∧ (n < 32 → (s.reg rm).getLsbD (31 - n) = true)
      ∧ exec (.clz c rd rm) s = .next (s.wrote rd (BitVec.ofNat 32 n) s.cpsr)

/-- R180, R142, R143, R168 to R171, R192, R301, R302: the instructions that take general registers only are refused when
they name R15, or one register in two places that must differ: the twelve multiplies and CLZ, the four saturating ones,
MRS and the swaps. -/
def Obligations.RegisterRestrictionsRefused : Prop :=
  ∀ (i : Instr) (c : Cond) (s : State), i.forbidsPc = true → i.condition = some c → s.starts c i.named = true →
    (15#4 ∈ i.named → exec i s = .refused .pcOperand)
      ∧ (15#4 ∉ i.named → i.clashes = true → exec i s = .refused .sameRegister)

/-! ## Program status registers -/

/-- R142, R143: MRS copies the CPSR, or the SPSR of the mode, into Rd and changes no flag; in USER and System mode,
which have no SPSR, the second form is refused. -/
def Obligations.MrsResults : Prop :=
  ∀ (c : Cond) (rd : Reg) (s : State), s.runs c [rd] = true → rd ≠ 15#4 →
    exec (.mrsCpsr c rd) s = .next (s.wrote rd s.cpsr s.cpsr)
      ∧ (∀ saved, s.spsr.get s.bank = some saved → exec (.mrsSpsr c rd) s = .next (s.wrote rd saved s.cpsr))
      ∧ (s.spsr.get s.bank = none → exec (.mrsSpsr c rd) s = .refused .noSpsr)

/-- R146, R147, R149: MSR to the CPSR, register and immediate: in the selected bytes the flags and Q are written, in a
privileged mode also I, F and M, and no other bit of the CPSR and nothing else changes. -/
def Obligations.MsrCpsrResults : Prop :=
  ∀ (o : MsrOperand) (c : Cond) (fields : BitVec 4) (s : State) (new : Word),
    s.runs c o.named = true → 15#4 ∉ o.named → fields ≠ 0#4 → msrReservedFree fields (o.value s) →
    (s.privileged = true → fields.getLsbD 0 = true → (o.value s).getLsbD 5 = false) →
    Merges new s.cpsr (o.value s) (msrWritesCpsr s fields) → Psr.legalMode (Psr.mode new) = true →
    exec (o.toCpsr c fields) s = .next { s.advanced with cpsr := new }

/-- R146, R148, R150: MSR to the SPSR of the mode, register and immediate: every bit of a selected byte that is not
reserved is written; the CPSR and the other SPSRs do not change. -/
def Obligations.MsrSpsrResults : Prop :=
  ∀ (o : MsrOperand) (c : Cond) (fields : BitVec 4) (s : State) (saved new : Word),
    s.runs c o.named = true → 15#4 ∉ o.named → fields ≠ 0#4 → msrReservedFree fields (o.value s) →
    s.spsr.get s.bank = some saved → Merges new saved (o.value s) (msrWritesSpsr fields) →
    exec (o.toSpsr c fields) s = .next { s.advanced with spsr := s.spsr.set s.bank new }

/-- R146 to R150: what MSR refuses: R15 as the operand, no field selected, a 1 for a selected reserved bit, a 1 for T of
the CPSR in a privileged mode, an illegal new mode, and the SPSR in a mode that has none. -/
def Obligations.MsrRefusals : Prop :=
  ∀ (o : MsrOperand) (c : Cond) (fields : BitVec 4) (s : State), s.starts c o.named = true →
    (15#4 ∈ o.named → exec (o.toCpsr c fields) s = .refused .pcOperand ∧ exec (o.toSpsr c fields) s = .refused .pcOperand)
      ∧ (15#4 ∉ o.named →
        (fields = 0#4 → exec (o.toCpsr c fields) s = .refused .noFieldSelected
            ∧ exec (o.toSpsr c fields) s = .refused .noFieldSelected)
          ∧ (fields ≠ 0#4 → ¬ msrReservedFree fields (o.value s) →
            exec (o.toCpsr c fields) s = .refused .reservedPsrBit
              ∧ exec (o.toSpsr c fields) s = .refused .reservedPsrBit)
          ∧ (fields ≠ 0#4 → msrReservedFree fields (o.value s) →
            (s.privileged = true → fields.getLsbD 0 = true → (o.value s).getLsbD 5 = true →
                exec (o.toCpsr c fields) s = .refused .msrSetsT)
              ∧ (∀ new : Word, (s.privileged = true → fields.getLsbD 0 = true → (o.value s).getLsbD 5 = false) →
                Merges new s.cpsr (o.value s) (msrWritesCpsr s fields) → Psr.legalMode (Psr.mode new) = false →
                exec (o.toCpsr c fields) s = .refused .illegalMode)
              ∧ (s.spsr.get s.bank = none → exec (o.toSpsr c fields) s = .refused .noSpsr)))

/-! ## Branches -/

/-- R220, R221, R226: B and BL go to the address of the instruction plus 8 plus four times the signed 24-bit field; BL
leaves the address of the following instruction in R14 of the current mode. Nothing else changes. -/
def Obligations.BranchResults : Prop :=
  ∀ (c : Cond) (imm : BitVec 24) (s : State) (target : Word), wordAligned s.pc = true →
    target = s.pc + 8#32 + BitVec.ofInt 32 (4 * imm.toInt) →
    (s.starts c [] = true → exec (.b c imm) s = .next { s with pc := target, userXfer := false })
      ∧ (s.starts c [14#4] = true →
        exec (.bl c imm) s
          = .next { s with gpr := s.gprWith 14#4 (s.pc + 4#32), pc := target, userXfer := false })

/-- R222 to R224, R226: BX and BLX Rm take T from bit 0 of Rm and go to Rm with bit 0 cleared, refused when that would
be a misaligned ARM address; BLX label always enters Thumb state at a halfword address. The two BLX leave the address
of the following instruction in R14, after Rm was read; BLX R15 is refused. Nothing else changes. -/
def Obligations.BranchExchangeResults : Prop :=
  ∀ (c : Cond) (rm : Reg) (s : State) (m : Word), m = s.reg rm →
    (s.starts c [rm] = true →
        (m.extractLsb' 0 2 = 0b10#2 → exec (.bx c rm) s = .refused .misalignedBranch)
          ∧ (m.extractLsb' 0 2 ≠ 0b10#2 →
            exec (.bx c rm) s
              = .next { s with
                  cpsr := Psr.withT s.cpsr (m.getLsbD 0), pc := m.extractLsb' 1 31 ++ 0b0#1, userXfer := false }))
      ∧ (s.starts c [rm, 14#4] = true →
        (rm = 15#4 → exec (.blxReg c rm) s = .refused .pcOperand)
          ∧ (rm ≠ 15#4 → m.extractLsb' 0 2 = 0b10#2 → exec (.blxReg c rm) s = .refused .misalignedBranch)
          ∧ (rm ≠ 15#4 → m.extractLsb' 0 2 ≠ 0b10#2 →
            exec (.blxReg c rm) s
              = .next { s with
                  gpr := s.gprWith 14#4 (s.pc + 4#32), cpsr := Psr.withT s.cpsr (m.getLsbD 0)
                  pc := m.extractLsb' 1 31 ++ 0b0#1, userXfer := false }))
      ∧ ∀ (h : Bool) (imm : BitVec 24), s.mayName [14#4] = true →
        exec (.blxLabel h imm) s
          = .next { s with
              gpr := s.gprWith 14#4 (s.pc + 4#32), cpsr := Psr.withT s.cpsr true
              pc := s.pc + 8#32 + BitVec.ofInt 32 (4 * imm.toInt + if h then 2 else 0), userXfer := false }

/-! ## Memory -/

/-- R62, R63, R67: little-endian memory: after a word is stored at an aligned address, its bytes and halfwords are where
the byte order puts them, whatever width is read; no other byte changes, whatever width is stored; the canonical form is
kept; and a fetch gives the bytes of the word at R15, lowest first. -/
def Obligations.MemoryByteOrder : Prop :=
  (∀ (m : Memory) (a v : Word), wordAligned a = true →
    (m.store .word a v).load .word a = v
      ∧ (∀ k, k < 4 → (m.store .word a v).load .byte (a + BitVec.ofNat 32 k) = (v.extractLsb' (8 * k) 8).setWidth 32)
      ∧ ∀ h, h < 2 →
        (m.store .word a v).load .half (a + BitVec.ofNat 32 (2 * h)) = (v.extractLsb' (16 * h) 16).setWidth 32)
    ∧ (∀ (m : Memory) (z : Size) (a v : Word),
      (∀ x, x ∉ accessBytes z a → (m.store z a v).get x = m.get x)
        ∧ (m.store z a v).load z a = (v.extractLsb' 0 (8 * z.bytes)).setWidth 32
        ∧ (Memory.wf m = true → Memory.wf (m.store z a v) = true))
    ∧ ∀ (s : State) (bytes : List Byte), fetch s = .ok bytes →
      bytes = (List.range 4).map fun k => (s.mem.load .word s.pc).extractLsb' (8 * k) 8

/-! ## Single-register loads and stores -/

/-- R240 to R245, R247, R250, R251, R253 to R257, R69: the twenty forms of LDR, LDRT, LDRB, LDRBT, LDRSB, LDRH and
LDRSH: when the registers are allowed and the access succeeds, made in every mode without privilege by LDRT and LDRBT
(R247) and with the mode's by the others, the base is written back if the form does so and Rd becomes the value at the
address, zero- or sign-extended; nothing else changes, in memory neither. -/
def Obligations.LoadResults : Prop :=
  ∀ (i : Instr) (t : Transfer) (s : State) (p : Bool), i.transfer = some t → t.op.isLoad = true → t.op ≠ .ldrPc →
    t.allowed = true → s.runs t.c t.named = true → p = (if t.op ∈ [.ldrt, .ldrbt] then false else s.privileged) →
    s.canAccess t.op.size (t.address s) .read p = true →
    exec i s = .next { s.advanced with
      gpr := (t.baseWritten s).set (s.bank.index t.rd)
        (t.op.loaded fun k => s.mem.get (t.address s + BitVec.ofNat 32 k).toNat) }

/-- R252, R240: LDR to R15: the loaded word is the address of the next instruction, bit 0 of it becomes T and is
cleared in R15; a misaligned ARM address is refused. The base is written back if the form does so; nothing else
changes. -/
def Obligations.LoadToPcResults : Prop :=
  ∀ (i : Instr) (t : Transfer) (s : State) (data : Word), i.transfer = some t → t.op = .ldrPc →
    t.allowed = true → s.starts t.c t.named = true → s.canAccess .word (t.address s) .read s.privileged = true →
    data = s.mem.load .word (t.address s) →
    exec i s =
      if data.extractLsb' 0 2 = 0b10#2 then .refused .misalignedBranch
      else .next { s with
        gpr := t.baseWritten s, cpsr := Psr.withT s.cpsr (data.getLsbD 0), pc := data.extractLsb' 1 31 ++ 0b0#1
        userXfer := false }

/-- R240 to R245, R247, R248, R258 to R262, R67: the twelve forms of STR, STRT, STRB, STRBT and STRH: when the
registers are allowed and the access succeeds, made in every mode without privilege by STRT and STRBT (R247) and with
the mode's by the others, the low bytes of Rd (for R15 the address of the instruction plus 8 or 12, R402; that it is
stored although nothing says which of the two is the model's choice, log 7) are stored at the address and the base is
written back if the form does so; every other byte of memory reads as before. -/
def Obligations.StoreResults : Prop :=
  ∀ (i : Instr) (t : Transfer) (s : State) (v : Word) (p : Bool), i.transfer = some t → t.op.isLoad = false →
    t.allowed = true → s.runs t.c t.named = true → p = (if t.op ∈ [.strt, .strbt] then false else s.privileged) →
    s.canAccess t.op.size (t.address s) .write p = true →
    v = (if t.rd = 15#4 then s.pc + Config.pcStoreOffset else s.reg t.rd) →
    exec i s = .next { s.advanced.afterStore t.op.size (t.address s) v with gpr := t.baseWritten s }
      ∧ (∀ k, k < t.op.size.bytes →
        (s.mem.store t.op.size (t.address s) v).get (t.address s + BitVec.ofNat 32 k).toNat = v.extractLsb' (8 * k) 8)
      ∧ ∀ x, x ∉ accessBytes t.op.size (t.address s) →
        (s.mem.store t.op.size (t.address s) v).get x = s.mem.get x

/-- R246, R242, R244: the register restrictions of the single-register loads and stores: a form that breaks one is
refused. -/
def Obligations.TransferRestrictionsRefused : Prop :=
  ∀ (i : Instr) (t : Transfer) (s : State), i.transfer = some t → s.starts t.c t.named = true →
    t.allowed = false → exec i s = .refused .writebackConflict ∨ exec i s = .refused .pcOperand

/-- R64, R66, R67, R346, R80, R300: an access of a single-register load or store (made without privilege by the four T
forms in every mode, R247), of a swap, or of word `j` of an LDM or STM, that cannot be made: refused when misaligned,
the end of the run outside `MEM_MAP`, else a Data Abort. It leaves memory and Rd as they were after a single transfer
or a swap; after a block, the words and registers before word `j` transferred and no other. The base register holds,
for one implementation always, either its old value or the written-back one (`ABORT_BASE`; that the instruction is not
refused when nothing says which is the model's choice, log 8; that an LDM has loaded the registers before word `j` is
its reading of R80, log 9). That a user-register form is remembered for the next step then too is the model's reading
(log 11): R403 does not say what an abort does to that memory. -/
def Obligations.TransferFailures : Prop :=
  (∀ (i : Instr) (t : Transfer) (s : State) (kind : AccessKind) (p : Bool), i.transfer = some t →
    s.starts t.c t.named = true → t.allowed = true → kind = (if t.op.isLoad then .read else .write) →
    p = (if t.op ∈ [.ldrt, .ldrbt, .strt, .strbt] then false else s.privileged) →
    (t.op.size.aligned (t.address s) = false → exec i s = .refused .misalignedAccess)
      ∧ (t.op.size.aligned (t.address s) = true → s.inMap t.op.size (t.address s) = false →
        exec i s = .fault (.outsideMemMap (t.address s)))
      ∧ (t.op.size.aligned (t.address s) = true → s.inMap t.op.size (t.address s) = true →
        s.abortsAt t.op.size (t.address s) kind p = true →
        exec i s = .next (takeException .dataAbort
          { s with gpr := if Config.abortBaseUpdated then t.baseWritten s else s.gpr })))
    ∧ (∀ (z : Size) (c : Cond) (rn rd rm : Reg) (s : State) (i : Instr) (a : Word),
      (i, z) ∈ [(Instr.swp c rn rd rm, Size.word), (.swpb c rn rd rm, .byte)] → s.starts c [rn, rd, rm] = true →
      rn ≠ 15#4 → rd ≠ 15#4 → rm ≠ 15#4 → rn ≠ rm → rn ≠ rd → a = s.reg rn →
      (z.aligned a = false → exec i s = .refused .misalignedAccess)
        ∧ (z.aligned a = true → s.inMap z a = false → exec i s = .fault (.outsideMemMap a))
        ∧ (z.aligned a = true → s.inMap z a = true →
          (s.abortsAt z a .read s.privileged = true ∨ s.abortsAt z a .write s.privileged = true) →
          exec i s = .next (takeException .dataAbort s)))
    ∧ ∀ (i : Instr) (b : BlockTransfer) (s : State) (kind : AccessKind) (j : Nat) (a : Word),
      i.blockTransfer = some b → s.starts b.c i.named = true → b.allowed s →
      kind = (if b.load then .read else .write) → j < listCount b.list →
      s.canAccessWords kind (b.start s) j = true → a = b.start s + blockBytes j →
      (wordAligned a = false → exec i s = .refused .misalignedAccess)
        ∧ (wordAligned a = true → s.inMap .word a = false → exec i s = .fault (.outsideMemMap a))
        ∧ (wordAligned a = true → s.inMap .word a = true → s.abortsAt .word a kind s.privileged = true →
          ∃ u, exec i s = .next { takeException .dataAbort u with userXfer := b.user }
            ∧ (b.load = true → u = { s with gpr := u.gpr } ∧ b.LoadedUpTo s j u.gpr)
            ∧ (b.load = false → u = { s with gpr := b.abortBase s, mem := u.mem, written := u.written }
              ∧ s.BlockStored u (b.start s) j fun m => s.storedReg (b.bank s) ((listRegs b.list).getD m 0#4)))

/-! ## Load and store multiple -/

/-- R280, R282: LDM without R15: every listed register is loaded with its word of the block, the lowest register from
the lowest address; with `!` the base is written back; no other register, no flag and no memory changes. -/
def Obligations.LdmResults : Prop :=
  ∀ (c : Cond) (am : BlockMode) (w : Bool) (rn : Reg) (list : BitVec 15) (s : State) (start : Word),
    s.runs c (rn :: listRegs list) = true → rn ≠ 15#4 → list ≠ 0#15 → (w = true → list.getLsbD rn.toNat = false) →
    start = blockStart am (s.reg rn) (listCount list) → s.canAccessWords .read start (listCount list) = true →
    ∃ g, exec (.ldm c am w rn list) s = .next { s.advanced with gpr := g }
      ∧ s.BlockLoaded s.bank list start
        (if w then s.gprWith rn (blockFinal am (s.reg rn) (listCount list)) else s.gpr) g

/-- R280, R283: LDM with R15: as without it, and the word above the others is the address of the next instruction, bit 0
of it becomes T and is cleared in R15; a misaligned ARM address is refused. -/
def Obligations.LdmPcResults : Prop :=
  ∀ (c : Cond) (am : BlockMode) (w : Bool) (rn : Reg) (list : BitVec 15) (s : State) (start data : Word),
    s.starts c (rn :: listRegs list) = true → rn ≠ 15#4 → (w = true → list.getLsbD rn.toNat = false) →
    start = blockStart am (s.reg rn) (listCount list + 1) →
    s.canAccessWords .read start (listCount list + 1) = true →
    data = s.mem.load .word (start + blockBytes (listCount list)) →
    (data.extractLsb' 0 2 = 0b10#2 → exec (.ldmPc c am w rn list) s = .refused .misalignedBranch)
      ∧ (data.extractLsb' 0 2 ≠ 0b10#2 →
        ∃ g, exec (.ldmPc c am w rn list) s
            = .next { s with
                gpr := g, cpsr := Psr.withT s.cpsr (data.getLsbD 0), pc := data.extractLsb' 1 31 ++ 0b0#1
                userXfer := false }
          ∧ s.BlockLoaded s.bank list start
            (if w then s.gprWith rn (blockFinal am (s.reg rn) (listCount list + 1)) else s.gpr) g)

/-- R285, R352: LDM with R15 and `^`, the return from an exception: the registers of the mode it starts in are loaded,
the CPSR is restored from the SPSR of that mode, and R15 is the word above the others; the state after it is that of
the restored T. Refused with an illegal saved mode and to a misaligned ARM address. -/
def Obligations.LdmReturnResults : Prop :=
  ∀ (c : Cond) (am : BlockMode) (w : Bool) (rn : Reg) (list : BitVec 15) (s : State) (start data saved : Word),
    s.starts c (rn :: listRegs list) = true → rn ≠ 15#4 → (w = true → list.getLsbD rn.toNat = false) →
    start = blockStart am (s.reg rn) (listCount list + 1) →
    s.canAccessWords .read start (listCount list + 1) = true →
    data = s.mem.load .word (start + blockBytes (listCount list)) → s.spsr.get s.bank = some saved →
    (Psr.legalMode (Psr.mode saved) = false → exec (.ldmPcRet c am w rn list) s = .refused .illegalMode)
      ∧ (Psr.legalMode (Psr.mode saved) = true → saved.getLsbD 5 = false → data.extractLsb' 0 2 ≠ 0b00#2 →
        exec (.ldmPcRet c am w rn list) s = .refused .misalignedBranch)
      ∧ (Psr.legalMode (Psr.mode saved) = true → (saved.getLsbD 5 = true ∨ data.extractLsb' 0 2 = 0b00#2) →
        ∃ g, exec (.ldmPcRet c am w rn list) s
            = .next { s with
                gpr := g, cpsr := saved, pc := data.extractLsb' 1 31 ++ 0b0#1, userXfer := false }
          ∧ s.BlockLoaded s.bank list start
            (if w then s.gprWith rn (blockFinal am (s.reg rn) (listCount list + 1)) else s.gpr) g)

/-- R284, R24: LDM of User-mode registers: the base is read in the current mode, the listed registers are loaded into
the User bank; no other physical register, no flag and no memory changes; the transfer is remembered for one step
(R403). -/
def Obligations.LdmUserResults : Prop :=
  ∀ (c : Cond) (am : BlockMode) (rn : Reg) (list : BitVec 15) (s : State) (start : Word),
    s.runs c (rn :: listRegs list) = true → rn ≠ 15#4 → list ≠ 0#15 → s.bank ≠ .usr →
    start = blockStart am (s.reg rn) (listCount list) → s.canAccessWords .read start (listCount list) = true →
    ∃ g, exec (.ldmUser c am rn list) s = .next { s.advanced with gpr := g, userXfer := true }
      ∧ s.BlockLoaded .usr list start s.gpr g

/-- R280, R286, R287: the two forms of STM: word number `j` of the block is the value, before the instruction, of the
`j`-th listed register, of the current mode or with `^` of the User bank (R15 as the address of the instruction plus 8
or 12, R402, the model's choice, log 7); every byte outside the block reads as before; with `!` the base is written
back; no other register changes. -/
def Obligations.StmResults : Prop :=
  ∀ (c : Cond) (am : BlockMode) (w : Bool) (rn : Reg) (list : BitVec 16) (s : State) (start : Word),
    s.runs c (rn :: listRegs list) = true → rn ≠ 15#4 → list ≠ 0#16 →
    start = blockStart am (s.reg rn) (listCount list) → s.canAccessWords .write start (listCount list) = true →
    ((w = true → list.getLsbD rn.toNat = true → listRank list rn = 0) →
        ∃ t, exec (.stm c am w rn list) s = .next t
          ∧ t = { s.advanced with
              gpr := if w then s.gprWith rn (blockFinal am (s.reg rn) (listCount list)) else s.gpr
              mem := t.mem, written := t.written }
          ∧ s.BlockStored t start (listCount list) fun j => s.storedReg s.bank ((listRegs list).getD j 0#4))
      ∧ (s.bank ≠ .usr →
        ∃ t, exec (.stmUser c am rn list) s = .next t
          ∧ t = { s.advanced with mem := t.mem, written := t.written, userXfer := true }
          ∧ s.BlockStored t start (listCount list) fun j => s.storedReg .usr ((listRegs list).getD j 0#4))

/-- R281: a push `STMxx Rn!, list` and the pop `LDMxx Rn!, list` of the same stack name undo each other: whatever the
other registers hold in between, the pop gives every listed register its value back and the base too. -/
def Obligations.PopUndoesPush : Prop :=
  ∀ (st ld : BlockMode) (rn : Reg) (list : BitVec 15) (s : State),
    (st, ld) ∈ [(BlockMode.ia, BlockMode.db), (.ib, .da), (.da, .ib), (.db, .ia)] →
    s.mayName (rn :: listRegs list) = true → s.pc.toNat + 8 < 2 ^ 32 → rn ≠ 15#4 → list ≠ 0#15 →
    list.getLsbD rn.toNat = false →
    s.canAccessWords .write (blockStart st (s.reg rn) (listCount list)) (listCount list) = true →
    s.canAccessWords .read (blockStart st (s.reg rn) (listCount list)) (listCount list) = true →
    ∃ t, exec (.stm .al st true rn (0b0#1 ++ list)) s = .next t
      ∧ ∀ g : Vector Word 30, g[s.bank.index rn] = t.gpr[s.bank.index rn] →
        ∃ u, exec (.ldm .al ld true rn list) { t with gpr := g } = .next u
          ∧ u.reg rn = s.reg rn ∧ ∀ r : Reg, r.toNat < 15 → list.getLsbD r.toNat = true → u.reg r = s.reg r

/-- R288, R64: what LDM and STM refuse: R15 as the base, a written-back base in the list of a load or, unless it is the
lowest register, of a store, the user-register forms without an SPSR (USER and System mode), the exception return there,
and a base that is not a multiple of 4, in all six forms, with `!` and without. -/
def Obligations.BlockRestrictionsRefused : Prop :=
  ∀ (c : Cond) (am : BlockMode) (w : Bool) (rn : Reg) (list : BitVec 15) (slist : BitVec 16) (s : State),
    s.starts c (rn :: listRegs list) = true → s.starts c (rn :: listRegs slist) = true →
    (s.bank = .usr →
        exec (.ldmPcRet c am w rn list) s = .refused .noSpsr
          ∧ exec (.ldmUser c am rn list) s = .refused .userTransferMode
          ∧ exec (.stmUser c am rn slist) s = .refused .userTransferMode)
      ∧ (rn = 15#4 →
        exec (.ldm c am w rn list) s = .refused .pcOperand ∧ exec (.ldmPc c am w rn list) s = .refused .pcOperand
          ∧ exec (.stm c am w rn slist) s = .refused .pcOperand
          ∧ (s.bank ≠ .usr → exec (.ldmPcRet c am w rn list) s = .refused .pcOperand
            ∧ exec (.ldmUser c am rn list) s = .refused .pcOperand
            ∧ exec (.stmUser c am rn slist) s = .refused .pcOperand))
      ∧ (rn ≠ 15#4 → w = true → list.getLsbD rn.toNat = true →
        exec (.ldm c am w rn list) s = .refused .baseInList ∧ exec (.ldmPc c am w rn list) s = .refused .baseInList
          ∧ (s.bank ≠ .usr → exec (.ldmPcRet c am w rn list) s = .refused .baseInList))
      ∧ (rn ≠ 15#4 → w = true → slist.getLsbD rn.toNat = true → listRank slist rn ≠ 0 →
        exec (.stm c am w rn slist) s = .refused .baseInList)
      ∧ (rn ≠ 15#4 → (s.reg rn).extractLsb' 0 2 ≠ 0b00#2 →
        ((w = true → list.getLsbD rn.toNat = false) →
            (list ≠ 0#15 → exec (.ldm c am w rn list) s = .refused .misalignedAccess)
              ∧ exec (.ldmPc c am w rn list) s = .refused .misalignedAccess
              ∧ (s.bank ≠ .usr → exec (.ldmPcRet c am w rn list) s = .refused .misalignedAccess))
          ∧ ((w = true → slist.getLsbD rn.toNat = true → listRank slist rn = 0) → slist ≠ 0#16 →
            exec (.stm c am w rn slist) s = .refused .misalignedAccess)
          ∧ (s.bank ≠ .usr →
            (list ≠ 0#15 → exec (.ldmUser c am rn list) s = .refused .misalignedAccess)
              ∧ (slist ≠ 0#16 → exec (.stmUser c am rn slist) s = .refused .misalignedAccess)))

/-! ## Swap -/

/-- R301, R302: SWP and SWPB: Rd becomes the word, or the zero-extended byte, at the address in Rn, and that word or
byte becomes Rm, read before Rd is written; every other byte of memory reads as before and nothing else changes. -/
def Obligations.SwapResults : Prop :=
  ∀ (c : Cond) (rn rd rm : Reg) (s : State) (a : Word), s.runs c [rn, rd, rm] = true → rn ≠ 15#4 → rd ≠ 15#4 →
    rm ≠ 15#4 → rn ≠ rm → rn ≠ rd → a = s.reg rn →
    (s.canAccess .word a .read s.privileged = true → s.canAccess .word a .write s.privileged = true →
        exec (.swp c rn rd rm) s
            = .next { s.advanced.afterStore .word a (s.reg rm) with gpr := s.gprWith rd (s.mem.load .word a) }
          ∧ (s.mem.store .word a (s.reg rm)).load .word a = s.reg rm
          ∧ ∀ x, x ∉ accessBytes .word a → (s.mem.store .word a (s.reg rm)).get x = s.mem.get x)
      ∧ (s.canAccess .byte a .read s.privileged = true → s.canAccess .byte a .write s.privileged = true →
        exec (.swpb c rn rd rm) s
            = .next { s.advanced.afterStore .byte a (s.reg rm) with
                gpr := s.gprWith rd ((s.mem.get a.toNat).setWidth 32) }
          ∧ (s.mem.store .byte a (s.reg rm)).get a.toNat = (s.reg rm).extractLsb' 0 8
          ∧ ∀ x, x ≠ a.toNat → (s.mem.store .byte a (s.reg rm)).get x = s.mem.get x)

/-! ## Coprocessors -/

/-- R310 to R317: CDP, MRC and MCR and their `...2` forms: when the coprocessor takes the instruction (which nothing
decides for a coprocessor that is present, log 6) its state changes as its functions say and MRC writes Rd, or for R15
the four flags; when none takes it, the Undefined Instruction exception and nothing else. -/
def Obligations.CoprocessorOperationResults : Prop :=
  ∀ (c : Cond) (op : BitVec 4) (op1 op2 : BitVec 3) (crn crd crm cp : BitVec 4) (rd : Reg) (s : State) (i : Instr),
    s.hasNext = true →
    (((i = .cdp c op crn crd cp op2 crm ∧ s.starts c [] = true)
          ∨ (i = .cdp2 op crn crd cp op2 crm ∧ s.mayName [] = true)) →
        exec i s = .next (if s.cpTakes cp (encode i) then
            { s.advanced with cpState := s.cpState.set cp.toNat (Config.cpCdp cp (encode i) (s.cp cp)) cp.isLt }
          else takeException .undefined s))
      ∧ (((i = .mrc c op1 crn rd cp op2 crm ∧ s.starts c [rd] = true)
          ∨ (i = .mrc2 op1 crn rd cp op2 crm ∧ s.mayName [rd] = true)) →
        exec i s = .next (if s.cpTakes cp (encode i) then
            { s.advanced with
              gpr := if rd = 15#4 then s.gpr else s.gprWith rd (Config.cpMrc cp (encode i) (s.cp cp)).1
              cpsr := if rd = 15#4 then
                  (Config.cpMrc cp (encode i) (s.cp cp)).1.extractLsb' 28 4 ++ s.cpsr.extractLsb' 0 28
                else s.cpsr
              cpState := s.cpState.set cp.toNat (Config.cpMrc cp (encode i) (s.cp cp)).2 cp.isLt }
          else takeException .undefined s))
      ∧ (((i = .mcr c op1 crn rd cp op2 crm ∧ s.starts c [rd] = true)
          ∨ (i = .mcr2 op1 crn rd cp op2 crm ∧ s.mayName [rd] = true)) →
        (s.cpTakes cp (encode i) = false ∨ rd ≠ 15#4 →
            exec i s = .next (if s.cpTakes cp (encode i) then
                { s.advanced with
                  cpState := s.cpState.set cp.toNat (Config.cpMcr cp (encode i) (s.reg rd) (s.cp cp)) cp.isLt }
              else takeException .undefined s))
          ∧ (s.cpTakes cp (encode i) = true → rd = 15#4 → exec i s = .refused .pcOperand))

/-- R310, R311, R318 to R322, R80, R346: LDC, STC and their `...2` forms, the six forms of addressing mode 5 each. When
none takes the instruction: the Undefined Instruction exception and nothing else. When the coprocessor takes it: a form
that writes R15 back is refused; where the `k` words are accessible, LDC gives it the words from the start address
upward, STC stores the words it supplies and no other byte, and the base is written back if the form does so; where word
`j` is not, the run is refused for a misaligned address, ends outside `MEM_MAP`, or takes the Data Abort, with the words
before it transferred (which state the coprocessor has then, and that nothing is refused for want of `ABORT_BASE`, are
the model's, logs 8 and 20). -/
def Obligations.CoprocessorTransferResults : Prop :=
  ∀ (i : Instr) (t : CpTransfer) (s : State) (start : Word) (kind : AccessKind) (k : Nat), i.cpTransfer = some t →
    (∀ c, i.condition = some c → condHolds c s.cpsr = true) → s.mayName [t.rn] = true →
    start = s.cpStart t.ix t.u t.rn t.off → kind = (if t.load then .read else .write) →
    k = (if t.load then (Config.cpLdcCount t.cp (encode i) (s.cp t.cp)).val + 1
      else (Config.cpStcCount t.cp (encode i) (s.cp t.cp)).val + 1) →
    (t.ix ≠ .offset → t.rn = 15#4 →
        exec i s = if s.cpTakes t.cp (encode i) then .refused .writebackConflict
          else .next (takeException .undefined s))
      ∧ ((t.ix ≠ .offset → t.rn ≠ 15#4) →
        (s.hasNext = true → s.canAccessWords kind start k = true →
            (t.load = true →
                exec i s = .next (if s.cpTakes t.cp (encode i) then
                    { s.advanced with
                      gpr := s.cpBase t.ix t.u t.rn t.off
                      cpState := s.cpState.set t.cp.toNat (s.ldcState t.cp (encode i) start k) t.cp.isLt }
                  else takeException .undefined s))
              ∧ (t.load = false →
                ∃ u, exec i s = .next (if s.cpTakes t.cp (encode i) then u else takeException .undefined s)
                  ∧ u = { s.advanced with
                      gpr := s.cpBase t.ix t.u t.rn t.off
                      cpState := s.cpState.set t.cp.toNat (Config.cpStcState t.cp (encode i) (s.cp t.cp)) t.cp.isLt
                      mem := u.mem, written := u.written }
                  ∧ s.BlockStored u start k fun j => Config.cpStcWord t.cp (encode i) j (s.cp t.cp)))
          ∧ ∀ (j : Nat) (a : Word), j < k → s.canAccessWords kind start j = true → a = start + blockBytes j →
            (wordAligned a = false →
                exec i s = if s.cpTakes t.cp (encode i) then .refused .misalignedAccess
                  else .next (takeException .undefined s))
              ∧ (wordAligned a = true → s.inMap .word a = false →
                exec i s = if s.cpTakes t.cp (encode i) then .fault (.outsideMemMap a)
                  else .next (takeException .undefined s))
              ∧ (wordAligned a = true → s.inMap .word a = true → s.abortsAt .word a kind s.privileged = true →
                ∃ u, exec i s = .next (if s.cpTakes t.cp (encode i) then takeException .dataAbort u
                    else takeException .undefined s)
                  ∧ (t.load = true → u = { s with
                      gpr := if Config.abortBaseUpdated then s.cpBase t.ix t.u t.rn t.off else s.gpr
                      cpState := s.cpState.set t.cp.toNat (s.ldcState t.cp (encode i) start j) t.cp.isLt })
                  ∧ (t.load = false →
                    u = { s with
                      gpr := if Config.abortBaseUpdated then s.cpBase t.ix t.u t.rn t.off else s.gpr
                      cpState := s.cpState.set t.cp.toNat (Config.cpStcState t.cp (encode i) (s.cp t.cp)) t.cp.isLt
                      mem := u.mem, written := u.written }
                    ∧ s.BlockStored u start j fun m => Config.cpStcWord t.cp (encode i) m (s.cp t.cp))))

/-! ## Instructions that take an exception -/

/-- R113, R311, R330, R331, R344, R351: SWI takes the software interrupt, BKPT the Prefetch Abort, the two undefined
patterns and every coprocessor instruction that no coprocessor takes the Undefined Instruction exception; the entry is
the whole effect. A coprocessor that is absent takes nothing. -/
def Obligations.InstructionsThatTakeExceptions : Prop :=
  (∀ (c : Cond) (s : State), condHolds c s.cpsr = true →
    (∀ imm : BitVec 24, exec (.swi c imm) s = .next (takeException .swi s))
      ∧ (∀ (hi : BitVec 20) (lo : BitVec 4), exec (.undefReg c hi lo) s = .next (takeException .undefined s))
      ∧ ∀ (b : Bool) (lo : BitVec 20), exec (.undefImm c b lo) s = .next (takeException .undefined s))
    ∧ (∀ (imm : BitVec 16) (s : State), exec (.bkpt imm) s = .next (takeException .prefetchAbort s))
    ∧ (∀ (i : Instr) (p : BitVec 4) (s : State), i.coprocessor = some p →
      (∀ c, i.condition = some c → condHolds c s.cpsr = true) → s.mayName i.named = true →
      s.cpTakes p (encode i) = false → exec i s = .next (takeException .undefined s))
    ∧ ∀ (p : Fin 16) (bits : Word) (s : State), s.coprocs[p] = false → s.cpTakes (BitVec.ofFin p) bits = false

/-! ## Rules of the whole machine -/

/-- R403: the step after a user-register LDM or STM refuses an instruction, its condition passed, that names a banked
register of the mode (which registers an instruction names: `Instr.named`, log 10); every other instruction then runs
as if there had been no such transfer. -/
def Obligations.BankedRegisterHazard : Prop :=
  ∀ (i : Instr) (s : State), s.userXfer = true →
    ((∀ c, i.condition = some c → condHolds c s.cpsr = true) →
        i.named.any (fun r => s.bank.isBanked r) = true → exec i s = .refused .bankedAfterUserTransfer)
      ∧ (((∃ c, i.condition = some c ∧ condHolds c s.cpsr = false)
          ∨ i.named.any (fun r => s.bank.isBanked r) = false) →
        exec i s = exec i { s with userXfer := false })

/-- R31, R32: no instruction but those of the list writes N, Z, C or V, and none but an MSR with field f or one that
restores the CPSR clears Q. -/
def Obligations.FlagsChangeOnlyByTheirWriters : Prop :=
  ∀ (i : Instr) (s t : State), exec i s = .next t →
    (i.writesFlags = false → t.cpsr.extractLsb' 28 4 = s.cpsr.extractLsb' 28 4)
      ∧ (i.mayClearQ = false → Psr.q s.cpsr = true → Psr.q t.cpsr = true)

/-- R34, R355 (d), R356: a step in USER mode either takes an exception, and then it is in the exception's mode at its
vector with IRQ disabled and the CPSR saved whole, or it leaves the mode, I and F as they are and changes no SPSR and no
physical register outside the User bank. -/
def Obligations.UserModeLeftByExceptionOnly : Prop :=
  ∀ s t : State, Psr.mode s.cpsr = 0b10000#5 → step s = .next t →
    (∃ e : Exc, Psr.mode t.cpsr = e.mode ∧ t.pc = e.vector ∧ Psr.i t.cpsr = true ∧ t.spsr.get e.bank = some s.cpsr)
      ∨ (Psr.mode t.cpsr = 0b10000#5 ∧ Psr.i t.cpsr = Psr.i s.cpsr ∧ Psr.f t.cpsr = Psr.f s.cpsr ∧ t.spsr = s.spsr
        ∧ ∀ k : Fin 30, 15 ≤ k.val → t.gpr[k] = s.gpr[k])

/-! ## Addressing mode 4; the end of the address space -/

/-- R280, its table: for `k` registers, from 1 to 16, and each of the modes IA, IB, DA and DB, the lowest and the highest
address of the block and the value that `!` writes back, as sums over the base modulo 2^32; and the addresses of R282's
example, three registers from 0x1004. -/
def Obligations.BlockAddresses : Prop :=
  (∀ (am : BlockMode) (base start last final n : Word) (k : Nat), 1 ≤ k → k ≤ 16 → n = BitVec.ofNat 32 (4 * k) →
    (am, start, last, final) ∈ [(BlockMode.ia, base, base + n - 4#32, base + n), (.ib, base + 4#32, base + n, base + n),
      (.da, base - n + 4#32, base, base - n), (.db, base - n, base - 4#32, base - n)] →
    blockStart am base k = start ∧ start + BitVec.ofNat 32 (4 * (k - 1)) = last ∧ blockFinal am base k = final)
    ∧ [BlockMode.ia, .ib, .da, .db].map (fun am => (blockStart am 0x1004#32 3, blockFinal am 0x1004#32 3))
      = [(0x1004#32, 0x1010#32), (0x1008#32, 0x1010#32), (0x0FFC#32, 0x0FF8#32), (0x0FF8#32, 0x0FF8#32)]

/-- R28: at the last word of the address space no instruction goes on sequentially: one that does not write R15 answers a
next state only through an exception that it takes; and the instructions that execute there are refused: NOP, data
processing to another register, the compares, the instructions on general registers, MRS and MSR, the single-register
loads and stores, the swaps, LDM and STM (the refusal's name is the model's, log 13). -/
def Obligations.SequentialWrapRefused : Prop :=
  ∀ s : State, s.hasNext = false →
    (∀ (i : Instr) (t : State), i.writesPc = false → exec i s = .next t →
        ∃ e : Exc, t.pc = e.vector ∧ Psr.mode t.cpsr = e.mode ∧ t.spsr.get e.bank = some s.cpsr)
      ∧ exec .nop s = .refused .sequentialWrap
      ∧ (∀ (k : DpName) (c : Cond) (sf : Bool) (rn rd : Reg) (o : Operand2), s.starts c (k.named rn rd o) = true →
        namesPc (k.named rn rd o) o = false → rd ≠ 15#4 → exec (k.instr c sf rn rd o) s = .refused .sequentialWrap)
      ∧ (∀ (k : CompareName) (c : Cond) (rn : Reg) (o : Operand2), s.starts c (rn :: operand2Regs o) = true →
        namesPc (rn :: operand2Regs o) o = false → exec (k.instr c rn o) s = .refused .sequentialWrap)
      ∧ (∀ (i : Instr) (c : Cond), i.forbidsPc = true → i.condition = some c → s.starts c i.named = true →
        15#4 ∉ i.named → i.clashes = false → (∀ rd, i = .mrsSpsr c rd → s.bank ≠ .usr) →
        (∀ (z : Size) (rn rd rm : Reg), (i, z) ∈ [(Instr.swp c rn rd rm, Size.word), (.swpb c rn rd rm, .byte)] →
          s.canAccess z (s.reg rn) .read s.privileged = true ∧ s.canAccess z (s.reg rn) .write s.privileged = true) →
        exec i s = .refused .sequentialWrap)
      ∧ (∀ (o : MsrOperand) (c : Cond) (fields : BitVec 4) (new : Word), s.starts c o.named = true → 15#4 ∉ o.named →
        fields ≠ 0#4 → msrReservedFree fields (o.value s) →
        ((s.privileged = true → fields.getLsbD 0 = true → (o.value s).getLsbD 5 = false) →
            Merges new s.cpsr (o.value s) (msrWritesCpsr s fields) → Psr.legalMode (Psr.mode new) = true →
            exec (o.toCpsr c fields) s = .refused .sequentialWrap)
          ∧ (s.bank ≠ .usr → exec (o.toSpsr c fields) s = .refused .sequentialWrap))
      ∧ (∀ (i : Instr) (t : Transfer) (kind : AccessKind) (p : Bool), i.transfer = some t → t.op ≠ .ldrPc →
        s.starts t.c t.named = true → t.allowed = true → kind = (if t.op.isLoad then .read else .write) →
        p = (if t.op ∈ [.ldrt, .ldrbt, .strt, .strbt] then false else s.privileged) →
        s.canAccess t.op.size (t.address s) kind p = true → exec i s = .refused .sequentialWrap)
      ∧ ∀ (i : Instr) (b : BlockTransfer) (kind : AccessKind), i.blockTransfer = some b → i.writesPc = false →
        s.starts b.c i.named = true → b.allowed s → kind = (if b.load then .read else .write) →
        s.canAccessWords kind (b.start s) (listCount b.list) = true → exec i s = .refused .sequentialWrap
end

