-- ==== Sys2Proof/Laws/Bits.lean ====
section
/-!
SUPPORT. Laws/Bits.lean: fields of a concatenation, and the small encodings read back.
-/

namespace Sys2Proof

/-- A field that lies in the low part of a concatenation. -/
theorem extractLsb'_append_low {n m k l : Nat} (x : BitVec n) (y : BitVec m) (h : k + l ≤ m) :
    (x ++ y).extractLsb' k l = y.extractLsb' k l := by
  apply BitVec.eq_of_getLsbD_eq
  intro i hi
  simp only [BitVec.getLsbD_append, BitVec.getLsbD_extractLsb', hi]
  rw [if_pos (by omega)]

/-- A field that lies in the high part of a concatenation. -/
theorem extractLsb'_append_high {n m k l : Nat} (x : BitVec n) (y : BitVec m) (h : m ≤ k) :
    (x ++ y).extractLsb' k l = x.extractLsb' (k - m) l := by
  apply BitVec.eq_of_getLsbD_eq
  intro i hi
  simp only [BitVec.getLsbD_append, BitVec.getLsbD_extractLsb', hi]
  rw [if_neg (by omega)]
  congr 2
  omega

/-- A field that crosses the middle of a concatenation. -/
theorem extractLsb'_append_across {n m k l : Nat} (x : BitVec n) (y : BitVec m) (h : k < m) (h2 : m < k + l) :
    (x ++ y).extractLsb' k l = (x.extractLsb' 0 (k + l - m) ++ y.extractLsb' k (m - k)).cast (by omega) := by
  apply BitVec.eq_of_getLsbD_eq
  intro i hi
  simp only [BitVec.getLsbD_append, BitVec.getLsbD_extractLsb', hi, BitVec.getLsbD_cast]
  by_cases hh : k + i < m
  · have : i < m - k := by omega
    simp [hh, this]
  · have h3 : ¬ i < m - k := by omega
    have h4 : i - (m - k) < k + l - m := by omega
    have h5 : k + i - m = i - (m - k) := by omega
    simp [hh, h3, h4, h5]

@[simp] theorem Cond.ofBits_bits (c : Cond) : Cond.ofBits c.bits = some c := by cases c <;> rfl

@[simp] theorem ShiftKind.ofBits_bits (k : ShiftKind) : ShiftKind.ofBits k.bits = k := by cases k <;> rfl

@[simp] theorem BlockMode.ofBits_bits (m : BlockMode) : BlockMode.ofBits m.bits = m := by cases m <;> rfl

@[simp] theorem IndexMode.ofBits_p_w (m : IndexMode) : IndexMode.ofBits m.p m.w = some m := by cases m <;> rfl

@[simp] theorem sbz_self {n : Nat} (a : BitVec n) (i : Instr) : sbz a a i = .ok i := by simp [sbz]

end Sys2Proof
end

