-- ==== Sys2Proof/Laws/Memory.lean ====
section
/-!
SUPPORT. Laws/Memory.lean: what the memory operations do to the byte at any address, and that each keeps the canonical form
of memory and of the set of written bytes.
-/

namespace Sys2Proof.Machine

/-! ## One byte -/

theorem Memory.get_erase (m : Memory) (a x : Nat) :
    (m.erase a).get x = if x = a then Memory.unlisted else m.get x := by
  induction m with
  | nil => simp [Memory.erase, Memory.get]
  | cons p rest ih =>
    simp only [Memory.erase]
    split
    · next h => rw [ih]; subst h; simp only [Memory.get]; grind
    · next h => simp only [Memory.get, ih]; grind

theorem Memory.erase_ne (m : Memory) (a : Nat) : ∀ p ∈ m.erase a, p.1 ≠ a := by
  induction m with
  | nil => simp [Memory.erase]
  | cons p rest ih =>
    simp only [Memory.erase]
    split
    · exact ih
    · intro q hq
      rcases List.mem_cons.mp hq with rfl | hq
      · assumption
      · exact ih q hq

theorem Memory.get_insert (m : Memory) (a x : Nat) (v : Byte) (h : ∀ p ∈ m, p.1 ≠ a) :
    (m.insert a v).get x = if x = a then v else m.get x := by
  induction m with
  | nil => simp [Memory.insert, Memory.get, eq_comm]
  | cons p rest ih =>
    have hp : p.1 ≠ a := h p (List.mem_cons_self ..)
    have hr : ∀ q ∈ rest, q.1 ≠ a := fun q hq => h q (List.mem_cons_of_mem p hq)
    simp only [Memory.insert]
    split
    · simp only [Memory.get]; grind
    · simp only [Memory.get, ih hr]; grind

/-- Read after write, and every other byte unchanged (R67): in every memory, canonical or not. -/
theorem Memory.get_put (m : Memory) (a x : Nat) (v : Byte) :
    (m.put a v).get x = if x = a then v else m.get x := by
  unfold Memory.put
  split
  · next h => rw [Memory.get_erase, h]
  · rw [Memory.get_insert _ _ _ _ (Memory.erase_ne m a), Memory.get_erase]; grind

theorem Memory.wfFrom_mono {lo lo' : Nat} (h : lo' ≤ lo) (m : Memory) (hm : m.wfFrom lo = true) :
    m.wfFrom lo' = true := by
  cases m with
  | nil => rfl
  | cons p rest =>
    simp only [Memory.wfFrom, Bool.and_eq_true, decide_eq_true_eq] at hm ⊢
    exact ⟨⟨⟨by omega, hm.1.1.2⟩, hm.1.2⟩, hm.2⟩

theorem Memory.wfFrom_erase (lo : Nat) (m : Memory) (a : Nat) (hm : m.wfFrom lo = true) :
    (m.erase a).wfFrom lo = true := by
  induction m generalizing lo with
  | nil => rfl
  | cons p rest ih =>
    simp only [Memory.wfFrom, Bool.and_eq_true, decide_eq_true_eq] at hm
    obtain ⟨⟨⟨h1, h2⟩, h3⟩, h4⟩ := hm
    simp only [Memory.erase]
    split
    · exact Memory.wfFrom_mono (by omega) _ (ih _ h4)
    · simp only [Memory.wfFrom, Bool.and_eq_true, decide_eq_true_eq]
      exact ⟨⟨⟨h1, h2⟩, h3⟩, ih _ h4⟩

theorem Memory.wfFrom_insert (lo : Nat) (m : Memory) (a : Nat) (v : Byte) (hm : m.wfFrom lo = true)
    (hne : ∀ p ∈ m, p.1 ≠ a) (hlo : lo ≤ a) (ha : a < 2 ^ 32) (hv : v ≠ Memory.unlisted) :
    (m.insert a v).wfFrom lo = true := by
  induction m generalizing lo with
  | nil =>
    simp only [Memory.insert, Memory.wfFrom, Bool.and_eq_true, decide_eq_true_eq, bne_iff_ne, ne_eq, and_true]
    exact ⟨⟨hlo, ha⟩, hv⟩
  | cons p rest ih =>
    have hp : p.1 ≠ a := hne p (List.mem_cons_self ..)
    simp only [Memory.wfFrom, Bool.and_eq_true, decide_eq_true_eq] at hm
    obtain ⟨⟨⟨h1, h2⟩, h3⟩, h4⟩ := hm
    simp only [Memory.insert]
    split
    · next h =>
      simp only [Memory.wfFrom, Bool.and_eq_true, decide_eq_true_eq, bne_iff_ne, ne_eq]
      exact ⟨⟨⟨hlo, ha⟩, hv⟩, ⟨⟨by omega, h2⟩, by simpa using h3⟩, h4⟩
    · next h =>
      simp only [Memory.wfFrom, Bool.and_eq_true, decide_eq_true_eq]
      exact ⟨⟨⟨h1, h2⟩, h3⟩, ih _ h4 (fun q hq => hne q (List.mem_cons_of_mem p hq)) (by omega)⟩

/-- A write keeps the canonical form. -/
theorem Memory.wf_put (m : Memory) (a : Nat) (v : Byte) (hm : m.wf = true) (ha : a < 2 ^ 32) :
    (m.put a v).wf = true := by
  unfold Memory.put
  split
  · exact Memory.wfFrom_erase 0 m a hm
  · next h =>
    exact Memory.wfFrom_insert 0 _ a v (Memory.wfFrom_erase 0 m a hm) (Memory.erase_ne m a) (Nat.zero_le a) ha h

/-- Memory at reset is in canonical form. -/
theorem Memory.wf_reset : Memory.wf State.reset.mem = true := rfl

/-! ## Addresses -/

theorem byteAddr_lt (a : Word) (k : Nat) : byteAddr a k < 2 ^ 32 := (a + BitVec.ofNat 32 k).isLt

@[simp] theorem byteAddr_zero (a : Word) : byteAddr a 0 = a.toNat := by simp [byteAddr]

theorem byteAddr_eq (a : Word) (k : Nat) (h : a.toNat + k < 2 ^ 32) : byteAddr a k = a.toNat + k := by
  simp only [byteAddr, BitVec.toNat_add, BitVec.toNat_ofNat]
  omega

/-- An address is word-aligned exactly when it is a multiple of 4 (R64). -/
theorem wordAligned_iff (a : Word) : wordAligned a = true ↔ a.toNat % 4 = 0 := by
  simp only [wordAligned, beq_iff_eq]
  constructor
  · intro h
    have := congrArg BitVec.toNat h
    simpa using this
  · intro h
    apply BitVec.eq_of_toNat_eq
    simpa using h

theorem halfAligned_iff (a : Word) : Size.half.aligned a = true ↔ a.toNat % 2 = 0 := by
  simp [Size.aligned, BitVec.getLsbD, Nat.testBit]

/-- The bytes of an aligned word do not wrap. -/
theorem byteAddr_word (a : Word) (k : Nat) (h : wordAligned a = true) (hk : k < 4) : byteAddr a k = a.toNat + k := by
  have := (wordAligned_iff a).mp h
  exact byteAddr_eq a k (by omega)

/-- The bytes of an aligned halfword do not wrap. -/
theorem byteAddr_half (a : Word) (k : Nat) (h : Size.half.aligned a = true) (hk : k < 2) :
    byteAddr a k = a.toNat + k := by
  have := (halfAligned_iff a).mp h
  exact byteAddr_eq a k (by omega)

/-! ## Accesses of every size -/

/-- Every store keeps the canonical form. -/
theorem Memory.wf_store (m : Memory) (z : Size) (a v : Word) (hm : m.wf = true) : (m.store z a v).wf = true := by
  cases z <;> simp only [Memory.store] <;> repeat' apply Memory.wf_put
  all_goals first | exact hm | exact byteAddr_lt a _

/-- A store leaves every byte that is not its own (R67). -/
theorem Memory.get_store_of_notMem (m : Memory) (z : Size) (a v : Word) (x : Nat) (h : x ∉ accessBytes z a) :
    (m.store z a v).get x = m.get x := by
  cases z <;> simp_all [Memory.store, accessBytes, Memory.get_put]

/-- The bytes of a stored word (R62). -/
theorem Memory.get_store_word (m : Memory) (a v : Word) (k : Nat) (h : wordAligned a = true) (hk : k < 4) :
    (m.store .word a v).get (a.toNat + k) = byteOfWord v k := by
  simp only [Memory.store, Memory.get_put, byteAddr_word a _ h (by omega : 0 < 4), byteAddr_word a _ h (by omega : 1 < 4),
    byteAddr_word a _ h (by omega : 2 < 4), byteAddr_word a _ h (by omega : 3 < 4)]
  rcases (by omega : k = 0 ∨ k = 1 ∨ k = 2 ∨ k = 3) with rfl | rfl | rfl | rfl <;> simp

/-- The bytes of a stored halfword (R62). -/
theorem Memory.get_store_half (m : Memory) (a v : Word) (k : Nat) (h : Size.half.aligned a = true) (hk : k < 2) :
    (m.store .half a v).get (a.toNat + k) = byteOfWord v k := by
  simp only [Memory.store, Memory.get_put, byteAddr_half a _ h (by omega : 0 < 2), byteAddr_half a _ h (by omega : 1 < 2)]
  rcases (by omega : k = 0 ∨ k = 1) with rfl | rfl <;> simp

/-- A stored byte (R62). -/
theorem Memory.get_store_byte (m : Memory) (a v : Word) : (m.store .byte a v).get a.toNat = byteOfWord v 0 := by
  simp [Memory.store, Memory.get_put]

/-- A load depends on the bytes of its access only. -/
theorem Memory.load_congr (m m' : Memory) (z : Size) (a : Word) (h : ∀ x ∈ accessBytes z a, m'.get x = m.get x) :
    m'.load z a = m.load z a := by
  cases z <;> simp_all [Memory.load, accessBytes]

/-- The bytes of a word make the word (R62). -/
theorem wordOfBytes_byteOfWord (w : Word) :
    wordOfBytes (byteOfWord w 0) (byteOfWord w 1) (byteOfWord w 2) (byteOfWord w 3) = w := by
  apply BitVec.eq_of_getLsbD_eq
  intro i hi
  simp only [wordOfBytes, byteOfWord, BitVec.getLsbD_append, BitVec.getLsbD_extractLsb']
  grind

/-- A word reads back as it was stored (R62, R67). -/
theorem Memory.load_store_word (m : Memory) (a v : Word) (h : wordAligned a = true) :
    (m.store .word a v).load .word a = v := by
  simp only [Memory.load, byteAddr_word a _ h (by omega : 0 < 4), byteAddr_word a _ h (by omega : 1 < 4),
    byteAddr_word a _ h (by omega : 2 < 4), byteAddr_word a _ h (by omega : 3 < 4)]
  rw [Memory.get_store_word m a v 0 h (by omega), Memory.get_store_word m a v 1 h (by omega),
    Memory.get_store_word m a v 2 h (by omega), Memory.get_store_word m a v 3 h (by omega), wordOfBytes_byteOfWord]

/-! ## The set of written bytes (R77) -/

theorem AddrSet.has_mark (l : AddrSet) (a x : Nat) : (l.mark a).has x = (decide (x = a) || l.has x) := by
  induction l with
  | nil => simp [AddrSet.mark, AddrSet.has, eq_comm, Bool.beq_eq_decide_eq]
  | cons k rest ih =>
    simp only [AddrSet.has] at ih
    simp only [AddrSet.mark, AddrSet.has]
    split
    · next h => subst h; simp only [List.any_cons]; grind
    · split
      · simp only [List.any_cons]; grind
      · simp only [List.any_cons, ih]; by_cases hx : x = a <;> simp [hx]

theorem AddrSet.has_markAll (l : AddrSet) (as : List Nat) (x : Nat) :
    (l.markAll as).has x = (decide (x ∈ as) || l.has x) := by
  induction as generalizing l with
  | nil => simp [AddrSet.markAll]
  | cons a rest ih =>
    simp only [AddrSet.markAll, ih, AddrSet.has_mark, List.mem_cons]
    by_cases h1 : x = a <;> by_cases h2 : x ∈ rest <;> simp [h1, h2]

theorem AddrSet.has_unmark (l : AddrSet) (a x : Nat) : (l.unmark a).has x = (l.has x && decide (x ≠ a)) := by
  induction l with
  | nil => simp [AddrSet.unmark, AddrSet.has]
  | cons k rest ih =>
    simp only [AddrSet.unmark, AddrSet.has] at ih ⊢
    simp only [List.filter_cons, List.any_cons]
    split
    · simp only [List.any_cons, ih]; grind
    · rw [ih]; grind

theorem AddrSet.wfFrom_mark (lo : Nat) (l : AddrSet) (a : Nat) (h : l.wfFrom lo = true) (ha : lo ≤ a) :
    (l.mark a).wfFrom lo = true := by
  induction l generalizing lo with
  | nil => simp [AddrSet.mark, AddrSet.wfFrom, ha]
  | cons k rest ih =>
    simp only [AddrSet.wfFrom, Bool.and_eq_true, decide_eq_true_eq] at h
    simp only [AddrSet.mark]
    split
    · simpa [AddrSet.wfFrom] using h
    · split
      · simp only [AddrSet.wfFrom, Bool.and_eq_true, decide_eq_true_eq]; exact ⟨ha, by omega, h.2⟩
      · simp only [AddrSet.wfFrom, Bool.and_eq_true, decide_eq_true_eq]; exact ⟨h.1, ih _ h.2 (by omega)⟩

/-- Recording a store keeps the canonical form. -/
theorem AddrSet.wf_markAll (l : AddrSet) (as : List Nat) (h : l.wf = true) : (l.markAll as).wf = true := by
  induction as generalizing l with
  | nil => exact h
  | cons a rest ih => exact ih _ (AddrSet.wfFrom_mark 0 l a h (Nat.zero_le a))

/-- A store keeps the canonical forms of memory and of the written bytes. -/
theorem State.stored_wf (s : State) (z : Size) (a v : Word) (hm : Memory.wf s.mem = true)
    (hw : AddrSet.wf s.written = true) :
    Memory.wf (s.stored z a v).mem = true ∧ AddrSet.wf (s.stored z a v).written = true :=
  ⟨Memory.wf_store _ z a v hm, AddrSet.wf_markAll _ _ hw⟩

end Sys2Proof.Machine
end

