-- ==== Sys2Proof/Laws/Flags.lean ====
section
/-!
SUPPORT. Laws/Flags.lean: the fields of a PSR after each update of a PSR, the saturation and the sums.
-/

namespace Sys2Proof.Machine

/-- Two words with the same bits in a field have the same field. -/
theorem Psr.field_congr (p p' : Word) (start len : Nat) (h : ∀ k < len, p'.getLsbD (start + k) = p.getLsbD (start + k)) :
    p'.extractLsb' start len = p.extractLsb' start len := by
  apply BitVec.eq_of_getLsbD_eq
  intro k hk
  simp [hk, h k hk]

/-- The bits of a CPSR after its flags are written: the four flags, and every other bit as before (R30, R31). -/
theorem Psr.getLsbD_withNZCV (p : Word) (n z c v : Bool) (k : Nat) (hk : k < 32) :
    (Psr.withNZCV p n z c v).getLsbD k =
      if k = 31 then n else if k = 30 then z else if k = 29 then c else if k = 28 then v else p.getLsbD k := by
  simp only [Psr.withNZCV, BitVec.getLsbD_append, BitVec.getLsbD_extractLsb', BitVec.getLsbD_ofBool]
  rcases (by omega : k < 28 ∨ k = 28 ∨ k = 29 ∨ k = 30 ∨ k = 31) with h | rfl | rfl | rfl | rfl
  · simp [show k ≠ 31 by omega, show k ≠ 30 by omega, show k ≠ 29 by omega, show k ≠ 28 by omega, h]
  all_goals simp

theorem Psr.getLsbD_withQ (p : Word) (q : Bool) (k : Nat) (hk : k < 32) :
    (Psr.withQ p q).getLsbD k = if k = 27 then q else p.getLsbD k := by
  simp only [Psr.withQ, BitVec.getLsbD_append, BitVec.getLsbD_extractLsb', BitVec.getLsbD_ofBool]
  rcases (by omega : k < 27 ∨ k = 27 ∨ 28 ≤ k) with h | rfl | h
  · simp [show k ≠ 27 by omega, h]
  · simp
  · simp [show ¬k < 27 by omega, show k ≠ 27 by omega, show k - 27 ≠ 0 by omega, show k - 27 - 1 < 4 by omega,
      show 28 + (k - 27 - 1) = k by omega]

theorem Psr.getLsbD_withT (p : Word) (t : Bool) (k : Nat) (hk : k < 32) :
    (Psr.withT p t).getLsbD k = if k = 5 then t else p.getLsbD k := by
  simp only [Psr.withT, BitVec.getLsbD_append, BitVec.getLsbD_extractLsb', BitVec.getLsbD_ofBool]
  rcases (by omega : k < 5 ∨ k = 5 ∨ 6 ≤ k) with h | rfl | h
  · simp [show k ≠ 5 by omega, h]
  · simp
  · simp [show ¬k < 5 by omega, show k ≠ 5 by omega, show k - 5 ≠ 0 by omega, show k - 5 - 1 < 26 by omega,
      show 6 + (k - 5 - 1) = k by omega]

/-- The bits of a CPSR after an exception entry (R350). -/
theorem Psr.getLsbD_entered (p : Word) (f : Bool) (mode : BitVec 5) (k : Nat) (hk : k < 32) :
    (Psr.entered p f mode).getLsbD k =
      if k < 5 then mode.getLsbD k else if k = 5 then false else if k = 6 then f else if k = 7 then true
      else p.getLsbD k := by
  simp only [Psr.entered, BitVec.getLsbD_append, BitVec.getLsbD_extractLsb', BitVec.getLsbD_ofBool]
  rcases (by omega : k < 5 ∨ k = 5 ∨ k = 6 ∨ k = 7 ∨ 8 ≤ k) with h | rfl | rfl | rfl | h
  · simp [h]
  · simp
  · simp
  · simp
  · simp [show ¬k < 5 by omega, show k ≠ 5 by omega, show k ≠ 6 by omega, show k ≠ 7 by omega,
      show k - 5 ≠ 0 by omega, show k - 5 - 1 ≠ 0 by omega, show k - 5 - 1 - 1 ≠ 0 by omega,
      show k - 5 - 1 - 1 - 1 < 24 by omega, show 8 + (k - 5 - 1 - 1 - 1) = k by omega]

/-! ## `Psr.withNZCV` -/

@[simp] theorem Psr.n_withNZCV (p : Word) (n z c v : Bool) : Psr.n (Psr.withNZCV p n z c v) = n :=
  Psr.getLsbD_withNZCV _ _ _ _ _ _ (by decide)
@[simp] theorem Psr.z_withNZCV (p : Word) (n z c v : Bool) : Psr.z (Psr.withNZCV p n z c v) = z :=
  Psr.getLsbD_withNZCV _ _ _ _ _ _ (by decide)
@[simp] theorem Psr.c_withNZCV (p : Word) (n z c v : Bool) : Psr.c (Psr.withNZCV p n z c v) = c :=
  Psr.getLsbD_withNZCV _ _ _ _ _ _ (by decide)
@[simp] theorem Psr.v_withNZCV (p : Word) (n z c v : Bool) : Psr.v (Psr.withNZCV p n z c v) = v :=
  Psr.getLsbD_withNZCV _ _ _ _ _ _ (by decide)
@[simp] theorem Psr.q_withNZCV (p : Word) (n z c v : Bool) : Psr.q (Psr.withNZCV p n z c v) = Psr.q p :=
  Psr.getLsbD_withNZCV _ _ _ _ _ _ (by decide)
@[simp] theorem Psr.i_withNZCV (p : Word) (n z c v : Bool) : Psr.i (Psr.withNZCV p n z c v) = Psr.i p :=
  Psr.getLsbD_withNZCV _ _ _ _ _ _ (by decide)
@[simp] theorem Psr.f_withNZCV (p : Word) (n z c v : Bool) : Psr.f (Psr.withNZCV p n z c v) = Psr.f p :=
  Psr.getLsbD_withNZCV _ _ _ _ _ _ (by decide)
@[simp] theorem Psr.t_withNZCV (p : Word) (n z c v : Bool) : Psr.t (Psr.withNZCV p n z c v) = Psr.t p :=
  Psr.getLsbD_withNZCV _ _ _ _ _ _ (by decide)
@[simp] theorem Psr.mode_withNZCV (p : Word) (n z c v : Bool) : Psr.mode (Psr.withNZCV p n z c v) = Psr.mode p := by
  apply Psr.field_congr; intro k hk; rw [Psr.getLsbD_withNZCV _ _ _ _ _ _ (by omega)]; grind
@[simp] theorem Psr.reserved_withNZCV (p : Word) (n z c v : Bool) : Psr.reserved (Psr.withNZCV p n z c v) = Psr.reserved p := by
  apply Psr.field_congr; intro k hk; rw [Psr.getLsbD_withNZCV _ _ _ _ _ _ (by omega)]; grind

/-! ## `Psr.withQ` -/

@[simp] theorem Psr.n_withQ (p : Word) (q : Bool) : Psr.n (Psr.withQ p q) = Psr.n p :=
  Psr.getLsbD_withQ _ _ _ (by decide)
@[simp] theorem Psr.z_withQ (p : Word) (q : Bool) : Psr.z (Psr.withQ p q) = Psr.z p :=
  Psr.getLsbD_withQ _ _ _ (by decide)
@[simp] theorem Psr.c_withQ (p : Word) (q : Bool) : Psr.c (Psr.withQ p q) = Psr.c p :=
  Psr.getLsbD_withQ _ _ _ (by decide)
@[simp] theorem Psr.v_withQ (p : Word) (q : Bool) : Psr.v (Psr.withQ p q) = Psr.v p :=
  Psr.getLsbD_withQ _ _ _ (by decide)
@[simp] theorem Psr.q_withQ (p : Word) (q : Bool) : Psr.q (Psr.withQ p q) = q :=
  Psr.getLsbD_withQ _ _ _ (by decide)
@[simp] theorem Psr.i_withQ (p : Word) (q : Bool) : Psr.i (Psr.withQ p q) = Psr.i p :=
  Psr.getLsbD_withQ _ _ _ (by decide)
@[simp] theorem Psr.f_withQ (p : Word) (q : Bool) : Psr.f (Psr.withQ p q) = Psr.f p :=
  Psr.getLsbD_withQ _ _ _ (by decide)
@[simp] theorem Psr.t_withQ (p : Word) (q : Bool) : Psr.t (Psr.withQ p q) = Psr.t p :=
  Psr.getLsbD_withQ _ _ _ (by decide)
@[simp] theorem Psr.mode_withQ (p : Word) (q : Bool) : Psr.mode (Psr.withQ p q) = Psr.mode p := by
  apply Psr.field_congr; intro k hk; rw [Psr.getLsbD_withQ _ _ _ (by omega)]; grind
@[simp] theorem Psr.reserved_withQ (p : Word) (q : Bool) : Psr.reserved (Psr.withQ p q) = Psr.reserved p := by
  apply Psr.field_congr; intro k hk; rw [Psr.getLsbD_withQ _ _ _ (by omega)]; grind

/-! ## `Psr.withT` -/

@[simp] theorem Psr.n_withT (p : Word) (t : Bool) : Psr.n (Psr.withT p t) = Psr.n p :=
  Psr.getLsbD_withT _ _ _ (by decide)
@[simp] theorem Psr.z_withT (p : Word) (t : Bool) : Psr.z (Psr.withT p t) = Psr.z p :=
  Psr.getLsbD_withT _ _ _ (by decide)
@[simp] theorem Psr.c_withT (p : Word) (t : Bool) : Psr.c (Psr.withT p t) = Psr.c p :=
  Psr.getLsbD_withT _ _ _ (by decide)
@[simp] theorem Psr.v_withT (p : Word) (t : Bool) : Psr.v (Psr.withT p t) = Psr.v p :=
  Psr.getLsbD_withT _ _ _ (by decide)
@[simp] theorem Psr.q_withT (p : Word) (t : Bool) : Psr.q (Psr.withT p t) = Psr.q p :=
  Psr.getLsbD_withT _ _ _ (by decide)
@[simp] theorem Psr.i_withT (p : Word) (t : Bool) : Psr.i (Psr.withT p t) = Psr.i p :=
  Psr.getLsbD_withT _ _ _ (by decide)
@[simp] theorem Psr.f_withT (p : Word) (t : Bool) : Psr.f (Psr.withT p t) = Psr.f p :=
  Psr.getLsbD_withT _ _ _ (by decide)
@[simp] theorem Psr.t_withT (p : Word) (t : Bool) : Psr.t (Psr.withT p t) = t :=
  Psr.getLsbD_withT _ _ _ (by decide)
@[simp] theorem Psr.mode_withT (p : Word) (t : Bool) : Psr.mode (Psr.withT p t) = Psr.mode p := by
  apply Psr.field_congr; intro k hk; rw [Psr.getLsbD_withT _ _ _ (by omega)]; grind
@[simp] theorem Psr.reserved_withT (p : Word) (t : Bool) : Psr.reserved (Psr.withT p t) = Psr.reserved p := by
  apply Psr.field_congr; intro k hk; rw [Psr.getLsbD_withT _ _ _ (by omega)]; grind

/-! ## `Psr.entered` -/

@[simp] theorem Psr.n_entered (p : Word) (f : Bool) (mode : BitVec 5) : Psr.n (Psr.entered p f mode) = Psr.n p :=
  Psr.getLsbD_entered _ _ _ _ (by decide)
@[simp] theorem Psr.z_entered (p : Word) (f : Bool) (mode : BitVec 5) : Psr.z (Psr.entered p f mode) = Psr.z p :=
  Psr.getLsbD_entered _ _ _ _ (by decide)
@[simp] theorem Psr.c_entered (p : Word) (f : Bool) (mode : BitVec 5) : Psr.c (Psr.entered p f mode) = Psr.c p :=
  Psr.getLsbD_entered _ _ _ _ (by decide)
@[simp] theorem Psr.v_entered (p : Word) (f : Bool) (mode : BitVec 5) : Psr.v (Psr.entered p f mode) = Psr.v p :=
  Psr.getLsbD_entered _ _ _ _ (by decide)
@[simp] theorem Psr.q_entered (p : Word) (f : Bool) (mode : BitVec 5) : Psr.q (Psr.entered p f mode) = Psr.q p :=
  Psr.getLsbD_entered _ _ _ _ (by decide)
@[simp] theorem Psr.i_entered (p : Word) (f : Bool) (mode : BitVec 5) : Psr.i (Psr.entered p f mode) = true :=
  Psr.getLsbD_entered _ _ _ _ (by decide)
@[simp] theorem Psr.f_entered (p : Word) (f : Bool) (mode : BitVec 5) : Psr.f (Psr.entered p f mode) = f :=
  Psr.getLsbD_entered _ _ _ _ (by decide)
@[simp] theorem Psr.t_entered (p : Word) (f : Bool) (mode : BitVec 5) : Psr.t (Psr.entered p f mode) = false :=
  Psr.getLsbD_entered _ _ _ _ (by decide)
@[simp] theorem Psr.mode_entered (p : Word) (f : Bool) (mode : BitVec 5) : Psr.mode (Psr.entered p f mode) = mode := by
  apply BitVec.eq_of_getLsbD_eq; intro k hk
  simp only [Psr.mode, BitVec.getLsbD_extractLsb']; rw [Psr.getLsbD_entered _ _ _ _ (by omega)]; grind
@[simp] theorem Psr.reserved_entered (p : Word) (f : Bool) (mode : BitVec 5) : Psr.reserved (Psr.entered p f mode) = Psr.reserved p := by
  apply Psr.field_congr; intro k hk; rw [Psr.getLsbD_entered _ _ _ _ (by omega)]; grind

/-! ## Derived updates -/

@[simp] theorem Psr.i_setNZCV (p r : Word) (c v : Bool) : Psr.i (Psr.setNZCV p r c v) = Psr.i p := by simp [Psr.setNZCV]
@[simp] theorem Psr.f_setNZCV (p r : Word) (c v : Bool) : Psr.f (Psr.setNZCV p r c v) = Psr.f p := by simp [Psr.setNZCV]
@[simp] theorem Psr.t_setNZCV (p r : Word) (c v : Bool) : Psr.t (Psr.setNZCV p r c v) = Psr.t p := by simp [Psr.setNZCV]
@[simp] theorem Psr.mode_setNZCV (p r : Word) (c v : Bool) : Psr.mode (Psr.setNZCV p r c v) = Psr.mode p := by simp [Psr.setNZCV]
@[simp] theorem Psr.reserved_setNZCV (p r : Word) (c v : Bool) : Psr.reserved (Psr.setNZCV p r c v) = Psr.reserved p := by simp [Psr.setNZCV]
@[simp] theorem Psr.i_setNZ (p r : Word) : Psr.i (Psr.setNZ p r) = Psr.i p := by simp [Psr.setNZ, Psr.setNZCV]
@[simp] theorem Psr.f_setNZ (p r : Word) : Psr.f (Psr.setNZ p r) = Psr.f p := by simp [Psr.setNZ, Psr.setNZCV]
@[simp] theorem Psr.t_setNZ (p r : Word) : Psr.t (Psr.setNZ p r) = Psr.t p := by simp [Psr.setNZ, Psr.setNZCV]
@[simp] theorem Psr.mode_setNZ (p r : Word) : Psr.mode (Psr.setNZ p r) = Psr.mode p := by simp [Psr.setNZ, Psr.setNZCV]
@[simp] theorem Psr.reserved_setNZ (p r : Word) : Psr.reserved (Psr.setNZ p r) = Psr.reserved p := by simp [Psr.setNZ, Psr.setNZCV]
@[simp] theorem Psr.i_setNZ64 (p : Word) (r : BitVec 64) : Psr.i (Psr.setNZ64 p r) = Psr.i p := by simp [Psr.setNZ64]
@[simp] theorem Psr.f_setNZ64 (p : Word) (r : BitVec 64) : Psr.f (Psr.setNZ64 p r) = Psr.f p := by simp [Psr.setNZ64]
@[simp] theorem Psr.t_setNZ64 (p : Word) (r : BitVec 64) : Psr.t (Psr.setNZ64 p r) = Psr.t p := by simp [Psr.setNZ64]
@[simp] theorem Psr.mode_setNZ64 (p : Word) (r : BitVec 64) : Psr.mode (Psr.setNZ64 p r) = Psr.mode p := by simp [Psr.setNZ64]
@[simp] theorem Psr.reserved_setNZ64 (p : Word) (r : BitVec 64) : Psr.reserved (Psr.setNZ64 p r) = Psr.reserved p := by simp [Psr.setNZ64]
@[simp] theorem Psr.i_setTopFour (p r : Word) : Psr.i (Psr.setTopFour p r) = Psr.i p := by simp [Psr.setTopFour]
@[simp] theorem Psr.f_setTopFour (p r : Word) : Psr.f (Psr.setTopFour p r) = Psr.f p := by simp [Psr.setTopFour]
@[simp] theorem Psr.t_setTopFour (p r : Word) : Psr.t (Psr.setTopFour p r) = Psr.t p := by simp [Psr.setTopFour]
@[simp] theorem Psr.mode_setTopFour (p r : Word) : Psr.mode (Psr.setTopFour p r) = Psr.mode p := by simp [Psr.setTopFour]
@[simp] theorem Psr.reserved_setTopFour (p r : Word) : Psr.reserved (Psr.setTopFour p r) = Psr.reserved p := by simp [Psr.setTopFour]
@[simp] theorem Psr.i_stickyQ (p : Word) (b : Bool) : Psr.i (Psr.stickyQ p b) = Psr.i p := by
  unfold Psr.stickyQ; split <;> simp
@[simp] theorem Psr.f_stickyQ (p : Word) (b : Bool) : Psr.f (Psr.stickyQ p b) = Psr.f p := by
  unfold Psr.stickyQ; split <;> simp
@[simp] theorem Psr.t_stickyQ (p : Word) (b : Bool) : Psr.t (Psr.stickyQ p b) = Psr.t p := by
  unfold Psr.stickyQ; split <;> simp
@[simp] theorem Psr.mode_stickyQ (p : Word) (b : Bool) : Psr.mode (Psr.stickyQ p b) = Psr.mode p := by
  unfold Psr.stickyQ; split <;> simp
@[simp] theorem Psr.reserved_stickyQ (p : Word) (b : Bool) : Psr.reserved (Psr.stickyQ p b) = Psr.reserved p := by
  unfold Psr.stickyQ; split <;> simp

/-- The flags that an S suffix writes (R144). -/
theorem Psr.setNZCV_eq_flagsIf (p r : Word) (c v : Bool) : Psr.setNZCV p r c v = flagsIf true p r c v := by
  simp [Psr.setNZCV, flagsIf, Bool.beq_eq_decide_eq]

/-- The reserved bits of a merge are clear when those of both sides are (R146). -/
theorem Psr.reserved_eq_zero_iff (p : Word) : Psr.clean p ↔ p &&& Psr.unallocMask = 0#32 := by
  unfold Psr.clean Psr.reserved
  have hm : ∀ k, k < 32 → Psr.unallocMask.getLsbD k = (decide (8 ≤ k) && decide (k < 27)) := by decide
  constructor
  · intro h
    apply BitVec.eq_of_getLsbD_eq
    intro k hk
    rw [BitVec.getLsbD_and, hm k hk]
    by_cases h8 : 8 ≤ k ∧ k < 27
    · have := congrArg (fun b => b.getLsbD (k - 8)) h
      simp only [BitVec.getLsbD_extractLsb'] at this
      have e : 8 + (k - 8) = k := by omega
      simp [e, show k - 8 < 19 by omega] at this
      simp [this]
    · have : (decide (8 ≤ k) && decide (k < 27)) = false := by
        simp only [Bool.and_eq_false_iff, decide_eq_false_iff_not]; omega
      simp [this]
  · intro h
    apply BitVec.eq_of_getLsbD_eq
    intro k hk
    have := congrArg (fun b => b.getLsbD (8 + k)) h
    simp only [BitVec.getLsbD_and, hm (8 + k) (by omega)] at this
    simp [show 8 + k < 27 by omega] at this
    simp [hk, this]

/-! ## Saturation and sums -/

/-- An exact integer in range is the value of its 32-bit encoding. -/
theorem toInt_ofInt_of_fits (x : Int) (h : fitsSigned x = true) : (BitVec.ofInt 32 x).toInt = x := by
  simp only [fitsSigned, Bool.and_eq_true, decide_eq_true_eq] at h
  rw [BitVec.toInt_ofInt, Int.bmod_def]
  omega

/-- The saturated result of an integer (R160): clamped to the signed 32-bit range. -/
theorem toInt_sat (x : Int) : (sat x).toInt = max (-(2 ^ 31)) (min (2 ^ 31 - 1) x) := by
  unfold sat
  split
  · have : (0x7FFFFFFF#32).toInt = 2 ^ 31 - 1 := by decide
    omega
  · split
    · have : (0x80000000#32).toInt = -(2 ^ 31) := by decide
      omega
    · rw [toInt_ofInt_of_fits x (by simp [fitsSigned]; omega)]
      omega

/-- The result of an addition with carry, as a word (R161). -/
theorem addWithCarry_result (a b : Word) (cin : Bool) :
    (addWithCarry a b cin).result = a + b + BitVec.ofNat 32 cin.toNat := by
  apply BitVec.eq_of_toNat_eq
  simp [addWithCarry, BitVec.toNat_add]

end Sys2Proof.Machine
end

