-- ==== Sys2Proof/Laws/State.lean ====
section
/-!
SUPPORT. Laws/State.lean: what each update of one field leaves of each field, and the fields of the composed updates, so
that no proof unfolds a record update.
-/

namespace Sys2Proof.Machine

/-! ## `withGpr` -/

@[simp] theorem State.withGpr_gpr (s : State) (g : Vector Word 30) : (s.withGpr g).gpr = g := rfl
@[simp] theorem State.withGpr_pc (s : State) (g : Vector Word 30) : (s.withGpr g).pc = s.pc := rfl
@[simp] theorem State.withGpr_cpsr (s : State) (g : Vector Word 30) : (s.withGpr g).cpsr = s.cpsr := rfl
@[simp] theorem State.withGpr_spsr (s : State) (g : Vector Word 30) : (s.withGpr g).spsr = s.spsr := rfl
@[simp] theorem State.withGpr_mem (s : State) (g : Vector Word 30) : (s.withGpr g).mem = s.mem := rfl
@[simp] theorem State.withGpr_written (s : State) (g : Vector Word 30) : (s.withGpr g).written = s.written := rfl
@[simp] theorem State.withGpr_memMap (s : State) (g : Vector Word 30) : (s.withGpr g).memMap = s.memMap := rfl
@[simp] theorem State.withGpr_aborts (s : State) (g : Vector Word 30) : (s.withGpr g).aborts = s.aborts := rfl
@[simp] theorem State.withGpr_coprocs (s : State) (g : Vector Word 30) : (s.withGpr g).coprocs = s.coprocs := rfl
@[simp] theorem State.withGpr_cpState (s : State) (g : Vector Word 30) : (s.withGpr g).cpState = s.cpState := rfl
@[simp] theorem State.withGpr_lines (s : State) (g : Vector Word 30) : (s.withGpr g).lines = s.lines := rfl
@[simp] theorem State.withGpr_userXfer (s : State) (g : Vector Word 30) : (s.withGpr g).userXfer = s.userXfer := rfl
@[simp] theorem State.withGpr_bank (s : State) (g : Vector Word 30) : (s.withGpr g).bank = s.bank := rfl
@[simp] theorem State.withGpr_privileged (s : State) (g : Vector Word 30) : (s.withGpr g).privileged = s.privileged := rfl

/-! ## `withPc` -/

@[simp] theorem State.withPc_gpr (s : State) (v : Word) : (s.withPc v).gpr = s.gpr := rfl
@[simp] theorem State.withPc_pc (s : State) (v : Word) : (s.withPc v).pc = v := rfl
@[simp] theorem State.withPc_cpsr (s : State) (v : Word) : (s.withPc v).cpsr = s.cpsr := rfl
@[simp] theorem State.withPc_spsr (s : State) (v : Word) : (s.withPc v).spsr = s.spsr := rfl
@[simp] theorem State.withPc_mem (s : State) (v : Word) : (s.withPc v).mem = s.mem := rfl
@[simp] theorem State.withPc_written (s : State) (v : Word) : (s.withPc v).written = s.written := rfl
@[simp] theorem State.withPc_memMap (s : State) (v : Word) : (s.withPc v).memMap = s.memMap := rfl
@[simp] theorem State.withPc_aborts (s : State) (v : Word) : (s.withPc v).aborts = s.aborts := rfl
@[simp] theorem State.withPc_coprocs (s : State) (v : Word) : (s.withPc v).coprocs = s.coprocs := rfl
@[simp] theorem State.withPc_cpState (s : State) (v : Word) : (s.withPc v).cpState = s.cpState := rfl
@[simp] theorem State.withPc_lines (s : State) (v : Word) : (s.withPc v).lines = s.lines := rfl
@[simp] theorem State.withPc_userXfer (s : State) (v : Word) : (s.withPc v).userXfer = s.userXfer := rfl
@[simp] theorem State.withPc_bank (s : State) (v : Word) : (s.withPc v).bank = s.bank := rfl
@[simp] theorem State.withPc_privileged (s : State) (v : Word) : (s.withPc v).privileged = s.privileged := rfl

/-! ## `withCpsr` -/

@[simp] theorem State.withCpsr_gpr (s : State) (v : Word) : (s.withCpsr v).gpr = s.gpr := rfl
@[simp] theorem State.withCpsr_pc (s : State) (v : Word) : (s.withCpsr v).pc = s.pc := rfl
@[simp] theorem State.withCpsr_cpsr (s : State) (v : Word) : (s.withCpsr v).cpsr = v := rfl
@[simp] theorem State.withCpsr_spsr (s : State) (v : Word) : (s.withCpsr v).spsr = s.spsr := rfl
@[simp] theorem State.withCpsr_mem (s : State) (v : Word) : (s.withCpsr v).mem = s.mem := rfl
@[simp] theorem State.withCpsr_written (s : State) (v : Word) : (s.withCpsr v).written = s.written := rfl
@[simp] theorem State.withCpsr_memMap (s : State) (v : Word) : (s.withCpsr v).memMap = s.memMap := rfl
@[simp] theorem State.withCpsr_aborts (s : State) (v : Word) : (s.withCpsr v).aborts = s.aborts := rfl
@[simp] theorem State.withCpsr_coprocs (s : State) (v : Word) : (s.withCpsr v).coprocs = s.coprocs := rfl
@[simp] theorem State.withCpsr_cpState (s : State) (v : Word) : (s.withCpsr v).cpState = s.cpState := rfl
@[simp] theorem State.withCpsr_lines (s : State) (v : Word) : (s.withCpsr v).lines = s.lines := rfl
@[simp] theorem State.withCpsr_userXfer (s : State) (v : Word) : (s.withCpsr v).userXfer = s.userXfer := rfl
@[simp] theorem State.withCpsr_bankReg (s : State) (v : Word) (b : Bank) (r : Reg) :
    (s.withCpsr v).bankReg b r = s.bankReg b r := rfl
@[simp] theorem State.withCpsr_storedReg (s : State) (v : Word) (b : Bank) (r : Reg) :
    (s.withCpsr v).storedReg b r = s.storedReg b r := rfl

/-! ## `withSpsr` -/

@[simp] theorem State.withSpsr_gpr (s : State) (v : Spsrs) : (s.withSpsr v).gpr = s.gpr := rfl
@[simp] theorem State.withSpsr_pc (s : State) (v : Spsrs) : (s.withSpsr v).pc = s.pc := rfl
@[simp] theorem State.withSpsr_cpsr (s : State) (v : Spsrs) : (s.withSpsr v).cpsr = s.cpsr := rfl
@[simp] theorem State.withSpsr_spsr (s : State) (v : Spsrs) : (s.withSpsr v).spsr = v := rfl
@[simp] theorem State.withSpsr_mem (s : State) (v : Spsrs) : (s.withSpsr v).mem = s.mem := rfl
@[simp] theorem State.withSpsr_written (s : State) (v : Spsrs) : (s.withSpsr v).written = s.written := rfl
@[simp] theorem State.withSpsr_memMap (s : State) (v : Spsrs) : (s.withSpsr v).memMap = s.memMap := rfl
@[simp] theorem State.withSpsr_aborts (s : State) (v : Spsrs) : (s.withSpsr v).aborts = s.aborts := rfl
@[simp] theorem State.withSpsr_coprocs (s : State) (v : Spsrs) : (s.withSpsr v).coprocs = s.coprocs := rfl
@[simp] theorem State.withSpsr_cpState (s : State) (v : Spsrs) : (s.withSpsr v).cpState = s.cpState := rfl
@[simp] theorem State.withSpsr_lines (s : State) (v : Spsrs) : (s.withSpsr v).lines = s.lines := rfl
@[simp] theorem State.withSpsr_userXfer (s : State) (v : Spsrs) : (s.withSpsr v).userXfer = s.userXfer := rfl
@[simp] theorem State.withSpsr_bank (s : State) (v : Spsrs) : (s.withSpsr v).bank = s.bank := rfl
@[simp] theorem State.withSpsr_privileged (s : State) (v : Spsrs) : (s.withSpsr v).privileged = s.privileged := rfl
@[simp] theorem State.withSpsr_reg (s : State) (v : Spsrs) (r : Reg) : (s.withSpsr v).reg r = s.reg r := rfl
@[simp] theorem State.withSpsr_bankReg (s : State) (v : Spsrs) (b : Bank) (r : Reg) :
    (s.withSpsr v).bankReg b r = s.bankReg b r := rfl
@[simp] theorem State.withSpsr_storedReg (s : State) (v : Spsrs) (b : Bank) (r : Reg) :
    (s.withSpsr v).storedReg b r = s.storedReg b r := rfl

/-! ## `withMem` -/

@[simp] theorem State.withMem_gpr (s : State) (m : Memory) : (s.withMem m).gpr = s.gpr := rfl
@[simp] theorem State.withMem_pc (s : State) (m : Memory) : (s.withMem m).pc = s.pc := rfl
@[simp] theorem State.withMem_cpsr (s : State) (m : Memory) : (s.withMem m).cpsr = s.cpsr := rfl
@[simp] theorem State.withMem_spsr (s : State) (m : Memory) : (s.withMem m).spsr = s.spsr := rfl
@[simp] theorem State.withMem_mem (s : State) (m : Memory) : (s.withMem m).mem = m := rfl
@[simp] theorem State.withMem_written (s : State) (m : Memory) : (s.withMem m).written = s.written := rfl
@[simp] theorem State.withMem_memMap (s : State) (m : Memory) : (s.withMem m).memMap = s.memMap := rfl
@[simp] theorem State.withMem_aborts (s : State) (m : Memory) : (s.withMem m).aborts = s.aborts := rfl
@[simp] theorem State.withMem_coprocs (s : State) (m : Memory) : (s.withMem m).coprocs = s.coprocs := rfl
@[simp] theorem State.withMem_cpState (s : State) (m : Memory) : (s.withMem m).cpState = s.cpState := rfl
@[simp] theorem State.withMem_lines (s : State) (m : Memory) : (s.withMem m).lines = s.lines := rfl
@[simp] theorem State.withMem_userXfer (s : State) (m : Memory) : (s.withMem m).userXfer = s.userXfer := rfl
@[simp] theorem State.withMem_bank (s : State) (m : Memory) : (s.withMem m).bank = s.bank := rfl
@[simp] theorem State.withMem_privileged (s : State) (m : Memory) : (s.withMem m).privileged = s.privileged := rfl
@[simp] theorem State.withMem_reg (s : State) (m : Memory) (r : Reg) : (s.withMem m).reg r = s.reg r := rfl
@[simp] theorem State.withMem_bankReg (s : State) (m : Memory) (b : Bank) (r : Reg) :
    (s.withMem m).bankReg b r = s.bankReg b r := rfl
@[simp] theorem State.withMem_storedReg (s : State) (m : Memory) (b : Bank) (r : Reg) :
    (s.withMem m).storedReg b r = s.storedReg b r := rfl

/-! ## `withWritten` -/

@[simp] theorem State.withWritten_gpr (s : State) (l : AddrSet) : (s.withWritten l).gpr = s.gpr := rfl
@[simp] theorem State.withWritten_pc (s : State) (l : AddrSet) : (s.withWritten l).pc = s.pc := rfl
@[simp] theorem State.withWritten_cpsr (s : State) (l : AddrSet) : (s.withWritten l).cpsr = s.cpsr := rfl
@[simp] theorem State.withWritten_spsr (s : State) (l : AddrSet) : (s.withWritten l).spsr = s.spsr := rfl
@[simp] theorem State.withWritten_mem (s : State) (l : AddrSet) : (s.withWritten l).mem = s.mem := rfl
@[simp] theorem State.withWritten_written (s : State) (l : AddrSet) : (s.withWritten l).written = l := rfl
@[simp] theorem State.withWritten_memMap (s : State) (l : AddrSet) : (s.withWritten l).memMap = s.memMap := rfl
@[simp] theorem State.withWritten_aborts (s : State) (l : AddrSet) : (s.withWritten l).aborts = s.aborts := rfl
@[simp] theorem State.withWritten_coprocs (s : State) (l : AddrSet) : (s.withWritten l).coprocs = s.coprocs := rfl
@[simp] theorem State.withWritten_cpState (s : State) (l : AddrSet) : (s.withWritten l).cpState = s.cpState := rfl
@[simp] theorem State.withWritten_lines (s : State) (l : AddrSet) : (s.withWritten l).lines = s.lines := rfl
@[simp] theorem State.withWritten_userXfer (s : State) (l : AddrSet) : (s.withWritten l).userXfer = s.userXfer := rfl
@[simp] theorem State.withWritten_bank (s : State) (l : AddrSet) : (s.withWritten l).bank = s.bank := rfl
@[simp] theorem State.withWritten_privileged (s : State) (l : AddrSet) : (s.withWritten l).privileged = s.privileged := rfl
@[simp] theorem State.withWritten_reg (s : State) (l : AddrSet) (r : Reg) : (s.withWritten l).reg r = s.reg r := rfl
@[simp] theorem State.withWritten_bankReg (s : State) (l : AddrSet) (b : Bank) (r : Reg) :
    (s.withWritten l).bankReg b r = s.bankReg b r := rfl
@[simp] theorem State.withWritten_storedReg (s : State) (l : AddrSet) (b : Bank) (r : Reg) :
    (s.withWritten l).storedReg b r = s.storedReg b r := rfl

/-! ## `withCpState` -/

@[simp] theorem State.withCpState_gpr (s : State) (v : Vector Nat 16) : (s.withCpState v).gpr = s.gpr := rfl
@[simp] theorem State.withCpState_pc (s : State) (v : Vector Nat 16) : (s.withCpState v).pc = s.pc := rfl
@[simp] theorem State.withCpState_cpsr (s : State) (v : Vector Nat 16) : (s.withCpState v).cpsr = s.cpsr := rfl
@[simp] theorem State.withCpState_spsr (s : State) (v : Vector Nat 16) : (s.withCpState v).spsr = s.spsr := rfl
@[simp] theorem State.withCpState_mem (s : State) (v : Vector Nat 16) : (s.withCpState v).mem = s.mem := rfl
@[simp] theorem State.withCpState_written (s : State) (v : Vector Nat 16) : (s.withCpState v).written = s.written := rfl
@[simp] theorem State.withCpState_memMap (s : State) (v : Vector Nat 16) : (s.withCpState v).memMap = s.memMap := rfl
@[simp] theorem State.withCpState_aborts (s : State) (v : Vector Nat 16) : (s.withCpState v).aborts = s.aborts := rfl
@[simp] theorem State.withCpState_coprocs (s : State) (v : Vector Nat 16) : (s.withCpState v).coprocs = s.coprocs := rfl
@[simp] theorem State.withCpState_cpState (s : State) (v : Vector Nat 16) : (s.withCpState v).cpState = v := rfl
@[simp] theorem State.withCpState_lines (s : State) (v : Vector Nat 16) : (s.withCpState v).lines = s.lines := rfl
@[simp] theorem State.withCpState_userXfer (s : State) (v : Vector Nat 16) : (s.withCpState v).userXfer = s.userXfer := rfl
@[simp] theorem State.withCpState_bank (s : State) (v : Vector Nat 16) : (s.withCpState v).bank = s.bank := rfl
@[simp] theorem State.withCpState_privileged (s : State) (v : Vector Nat 16) : (s.withCpState v).privileged = s.privileged := rfl
@[simp] theorem State.withCpState_reg (s : State) (v : Vector Nat 16) (r : Reg) : (s.withCpState v).reg r = s.reg r := rfl
@[simp] theorem State.withCpState_bankReg (s : State) (v : Vector Nat 16) (b : Bank) (r : Reg) :
    (s.withCpState v).bankReg b r = s.bankReg b r := rfl
@[simp] theorem State.withCpState_storedReg (s : State) (v : Vector Nat 16) (b : Bank) (r : Reg) :
    (s.withCpState v).storedReg b r = s.storedReg b r := rfl

/-! ## `withLines` -/

@[simp] theorem State.withLines_gpr (s : State) (l : List LineSample) : (s.withLines l).gpr = s.gpr := rfl
@[simp] theorem State.withLines_pc (s : State) (l : List LineSample) : (s.withLines l).pc = s.pc := rfl
@[simp] theorem State.withLines_cpsr (s : State) (l : List LineSample) : (s.withLines l).cpsr = s.cpsr := rfl
@[simp] theorem State.withLines_spsr (s : State) (l : List LineSample) : (s.withLines l).spsr = s.spsr := rfl
@[simp] theorem State.withLines_mem (s : State) (l : List LineSample) : (s.withLines l).mem = s.mem := rfl
@[simp] theorem State.withLines_written (s : State) (l : List LineSample) : (s.withLines l).written = s.written := rfl
@[simp] theorem State.withLines_memMap (s : State) (l : List LineSample) : (s.withLines l).memMap = s.memMap := rfl
@[simp] theorem State.withLines_aborts (s : State) (l : List LineSample) : (s.withLines l).aborts = s.aborts := rfl
@[simp] theorem State.withLines_coprocs (s : State) (l : List LineSample) : (s.withLines l).coprocs = s.coprocs := rfl
@[simp] theorem State.withLines_cpState (s : State) (l : List LineSample) : (s.withLines l).cpState = s.cpState := rfl
@[simp] theorem State.withLines_lines (s : State) (l : List LineSample) : (s.withLines l).lines = l := rfl
@[simp] theorem State.withLines_userXfer (s : State) (l : List LineSample) : (s.withLines l).userXfer = s.userXfer := rfl
@[simp] theorem State.withLines_bank (s : State) (l : List LineSample) : (s.withLines l).bank = s.bank := rfl
@[simp] theorem State.withLines_privileged (s : State) (l : List LineSample) : (s.withLines l).privileged = s.privileged := rfl
@[simp] theorem State.withLines_reg (s : State) (l : List LineSample) (r : Reg) : (s.withLines l).reg r = s.reg r := rfl
@[simp] theorem State.withLines_bankReg (s : State) (l : List LineSample) (b : Bank) (r : Reg) :
    (s.withLines l).bankReg b r = s.bankReg b r := rfl
@[simp] theorem State.withLines_storedReg (s : State) (l : List LineSample) (b : Bank) (r : Reg) :
    (s.withLines l).storedReg b r = s.storedReg b r := rfl

/-! ## `withUserXfer` -/

@[simp] theorem State.withUserXfer_gpr (s : State) (f : Bool) : (s.withUserXfer f).gpr = s.gpr := rfl
@[simp] theorem State.withUserXfer_pc (s : State) (f : Bool) : (s.withUserXfer f).pc = s.pc := rfl
@[simp] theorem State.withUserXfer_cpsr (s : State) (f : Bool) : (s.withUserXfer f).cpsr = s.cpsr := rfl
@[simp] theorem State.withUserXfer_spsr (s : State) (f : Bool) : (s.withUserXfer f).spsr = s.spsr := rfl
@[simp] theorem State.withUserXfer_mem (s : State) (f : Bool) : (s.withUserXfer f).mem = s.mem := rfl
@[simp] theorem State.withUserXfer_written (s : State) (f : Bool) : (s.withUserXfer f).written = s.written := rfl
@[simp] theorem State.withUserXfer_memMap (s : State) (f : Bool) : (s.withUserXfer f).memMap = s.memMap := rfl
@[simp] theorem State.withUserXfer_aborts (s : State) (f : Bool) : (s.withUserXfer f).aborts = s.aborts := rfl
@[simp] theorem State.withUserXfer_coprocs (s : State) (f : Bool) : (s.withUserXfer f).coprocs = s.coprocs := rfl
@[simp] theorem State.withUserXfer_cpState (s : State) (f : Bool) : (s.withUserXfer f).cpState = s.cpState := rfl
@[simp] theorem State.withUserXfer_lines (s : State) (f : Bool) : (s.withUserXfer f).lines = s.lines := rfl
@[simp] theorem State.withUserXfer_userXfer (s : State) (f : Bool) : (s.withUserXfer f).userXfer = f := rfl
@[simp] theorem State.withUserXfer_bank (s : State) (f : Bool) : (s.withUserXfer f).bank = s.bank := rfl
@[simp] theorem State.withUserXfer_privileged (s : State) (f : Bool) : (s.withUserXfer f).privileged = s.privileged := rfl
@[simp] theorem State.withUserXfer_reg (s : State) (f : Bool) (r : Reg) : (s.withUserXfer f).reg r = s.reg r := rfl
@[simp] theorem State.withUserXfer_bankReg (s : State) (f : Bool) (b : Bank) (r : Reg) :
    (s.withUserXfer f).bankReg b r = s.bankReg b r := rfl
@[simp] theorem State.withUserXfer_storedReg (s : State) (f : Bool) (b : Bank) (r : Reg) :
    (s.withUserXfer f).storedReg b r = s.storedReg b r := rfl

/-! ## Writing a register of a bank -/

@[simp] theorem State.setBankReg_cpsr (s : State) (b : Bank) (r : Reg) (v : Word) :
    (s.setBankReg b r v).cpsr = s.cpsr := by
  unfold State.setBankReg; split <;> rfl
@[simp] theorem State.setBankReg_spsr (s : State) (b : Bank) (r : Reg) (v : Word) :
    (s.setBankReg b r v).spsr = s.spsr := by
  unfold State.setBankReg; split <;> rfl
@[simp] theorem State.setBankReg_mem (s : State) (b : Bank) (r : Reg) (v : Word) :
    (s.setBankReg b r v).mem = s.mem := by
  unfold State.setBankReg; split <;> rfl
@[simp] theorem State.setBankReg_written (s : State) (b : Bank) (r : Reg) (v : Word) :
    (s.setBankReg b r v).written = s.written := by
  unfold State.setBankReg; split <;> rfl
@[simp] theorem State.setBankReg_memMap (s : State) (b : Bank) (r : Reg) (v : Word) :
    (s.setBankReg b r v).memMap = s.memMap := by
  unfold State.setBankReg; split <;> rfl
@[simp] theorem State.setBankReg_aborts (s : State) (b : Bank) (r : Reg) (v : Word) :
    (s.setBankReg b r v).aborts = s.aborts := by
  unfold State.setBankReg; split <;> rfl
@[simp] theorem State.setBankReg_coprocs (s : State) (b : Bank) (r : Reg) (v : Word) :
    (s.setBankReg b r v).coprocs = s.coprocs := by
  unfold State.setBankReg; split <;> rfl
@[simp] theorem State.setBankReg_cpState (s : State) (b : Bank) (r : Reg) (v : Word) :
    (s.setBankReg b r v).cpState = s.cpState := by
  unfold State.setBankReg; split <;> rfl
@[simp] theorem State.setBankReg_lines (s : State) (b : Bank) (r : Reg) (v : Word) :
    (s.setBankReg b r v).lines = s.lines := by
  unfold State.setBankReg; split <;> rfl
@[simp] theorem State.setBankReg_userXfer (s : State) (b : Bank) (r : Reg) (v : Word) :
    (s.setBankReg b r v).userXfer = s.userXfer := by
  unfold State.setBankReg; split <;> rfl

theorem State.setBankReg_gpr (s : State) (b : Bank) (r : Reg) (v : Word) (h : r ≠ 15#4) :
    (s.setBankReg b r v).gpr = s.gpr.set (b.index r) v := by
  simp [State.setBankReg, h]

theorem State.setBankReg_pc (s : State) (b : Bank) (r : Reg) (v : Word) (h : r ≠ 15#4) :
    (s.setBankReg b r v).pc = s.pc := by
  simp [State.setBankReg, h]

@[simp] theorem State.setBankReg_bank (s : State) (b : Bank) (r : Reg) (v : Word) :
    (s.setBankReg b r v).bank = s.bank := by
  simp [State.bank]

@[simp] theorem State.setBankReg_privileged (s : State) (b : Bank) (r : Reg) (v : Word) :
    (s.setBankReg b r v).privileged = s.privileged := by
  simp [State.privileged]

theorem State.setReg_eq_withGpr (s : State) (r : Reg) (v : Word) (h : r ≠ 15#4) :
    s.setReg r v = s.withGpr (s.gpr.set (s.bank.index r) v) := by
  simp [State.setReg, State.setBankReg, h]

@[simp] theorem State.setReg_cpsr (s : State) (r : Reg) (v : Word) : (s.setReg r v).cpsr = s.cpsr := by
  simp [State.setReg]
@[simp] theorem State.setReg_spsr (s : State) (r : Reg) (v : Word) : (s.setReg r v).spsr = s.spsr := by
  simp [State.setReg]
@[simp] theorem State.setReg_mem (s : State) (r : Reg) (v : Word) : (s.setReg r v).mem = s.mem := by
  simp [State.setReg]
@[simp] theorem State.setReg_written (s : State) (r : Reg) (v : Word) : (s.setReg r v).written = s.written := by
  simp [State.setReg]
@[simp] theorem State.setReg_memMap (s : State) (r : Reg) (v : Word) : (s.setReg r v).memMap = s.memMap := by
  simp [State.setReg]
@[simp] theorem State.setReg_aborts (s : State) (r : Reg) (v : Word) : (s.setReg r v).aborts = s.aborts := by
  simp [State.setReg]
@[simp] theorem State.setReg_coprocs (s : State) (r : Reg) (v : Word) : (s.setReg r v).coprocs = s.coprocs := by
  simp [State.setReg]
@[simp] theorem State.setReg_cpState (s : State) (r : Reg) (v : Word) : (s.setReg r v).cpState = s.cpState := by
  simp [State.setReg]
@[simp] theorem State.setReg_lines (s : State) (r : Reg) (v : Word) : (s.setReg r v).lines = s.lines := by
  simp [State.setReg]
@[simp] theorem State.setReg_userXfer (s : State) (r : Reg) (v : Word) : (s.setReg r v).userXfer = s.userXfer := by
  simp [State.setReg]
@[simp] theorem State.setReg_bank (s : State) (r : Reg) (v : Word) : (s.setReg r v).bank = s.bank := by
  simp [State.bank]
@[simp] theorem State.setReg_privileged (s : State) (r : Reg) (v : Word) : (s.setReg r v).privileged = s.privileged := by
  simp [State.privileged]

theorem State.setReg_pc (s : State) (r : Reg) (v : Word) (h : r ≠ 15#4) : (s.setReg r v).pc = s.pc := by
  simp [State.setReg_eq_withGpr, h]

theorem State.reg_eq_gpr (s : State) (r : Reg) (h : r ≠ 15#4) : s.reg r = s.gpr[s.bank.index r] := by
  simp [State.reg, State.bankReg, h]

@[simp] theorem State.reg_pc (s : State) : s.reg 15#4 = s.pc + 8#32 := by simp [State.reg, State.bankReg]

/-! ## Writing a list of registers -/

@[simp] theorem State.setBankRegs_cpsr (s : State) (b : Bank) (l : List (Reg × Word)) :
    (s.setBankRegs b l).cpsr = s.cpsr := by
  induction l generalizing s with
  | nil => rfl
  | cons p rest ih => simp [State.setBankRegs, ih]
@[simp] theorem State.setBankRegs_spsr (s : State) (b : Bank) (l : List (Reg × Word)) :
    (s.setBankRegs b l).spsr = s.spsr := by
  induction l generalizing s with
  | nil => rfl
  | cons p rest ih => simp [State.setBankRegs, ih]
@[simp] theorem State.setBankRegs_mem (s : State) (b : Bank) (l : List (Reg × Word)) :
    (s.setBankRegs b l).mem = s.mem := by
  induction l generalizing s with
  | nil => rfl
  | cons p rest ih => simp [State.setBankRegs, ih]
@[simp] theorem State.setBankRegs_written (s : State) (b : Bank) (l : List (Reg × Word)) :
    (s.setBankRegs b l).written = s.written := by
  induction l generalizing s with
  | nil => rfl
  | cons p rest ih => simp [State.setBankRegs, ih]
@[simp] theorem State.setBankRegs_memMap (s : State) (b : Bank) (l : List (Reg × Word)) :
    (s.setBankRegs b l).memMap = s.memMap := by
  induction l generalizing s with
  | nil => rfl
  | cons p rest ih => simp [State.setBankRegs, ih]
@[simp] theorem State.setBankRegs_aborts (s : State) (b : Bank) (l : List (Reg × Word)) :
    (s.setBankRegs b l).aborts = s.aborts := by
  induction l generalizing s with
  | nil => rfl
  | cons p rest ih => simp [State.setBankRegs, ih]
@[simp] theorem State.setBankRegs_coprocs (s : State) (b : Bank) (l : List (Reg × Word)) :
    (s.setBankRegs b l).coprocs = s.coprocs := by
  induction l generalizing s with
  | nil => rfl
  | cons p rest ih => simp [State.setBankRegs, ih]
@[simp] theorem State.setBankRegs_cpState (s : State) (b : Bank) (l : List (Reg × Word)) :
    (s.setBankRegs b l).cpState = s.cpState := by
  induction l generalizing s with
  | nil => rfl
  | cons p rest ih => simp [State.setBankRegs, ih]
@[simp] theorem State.setBankRegs_lines (s : State) (b : Bank) (l : List (Reg × Word)) :
    (s.setBankRegs b l).lines = s.lines := by
  induction l generalizing s with
  | nil => rfl
  | cons p rest ih => simp [State.setBankRegs, ih]
@[simp] theorem State.setBankRegs_userXfer (s : State) (b : Bank) (l : List (Reg × Word)) :
    (s.setBankRegs b l).userXfer = s.userXfer := by
  induction l generalizing s with
  | nil => rfl
  | cons p rest ih => simp [State.setBankRegs, ih]
@[simp] theorem State.setBankRegs_bank (s : State) (b : Bank) (l : List (Reg × Word)) :
    (s.setBankRegs b l).bank = s.bank := by
  simp [State.bank]

theorem State.setBankRegs_pc (s : State) (b : Bank) (l : List (Reg × Word)) (h : ∀ p ∈ l, p.1 ≠ 15#4) :
    (s.setBankRegs b l).pc = s.pc := by
  induction l generalizing s with
  | nil => rfl
  | cons p rest ih =>
    simp only [State.setBankRegs]
    rw [ih _ fun q hq => h q (List.mem_cons_of_mem p hq)]
    exact s.setBankReg_pc b p.1 p.2 (h p (List.mem_cons_self ..))

/-! ## Writeback -/

@[simp] theorem State.writeBack_cpsr (s : State) (wb : Bool) (rn : Reg) (v : Word) :
    (s.writeBack wb rn v).cpsr = s.cpsr := by
  unfold State.writeBack; split <;> simp
@[simp] theorem State.writeBack_spsr (s : State) (wb : Bool) (rn : Reg) (v : Word) :
    (s.writeBack wb rn v).spsr = s.spsr := by
  unfold State.writeBack; split <;> simp
@[simp] theorem State.writeBack_mem (s : State) (wb : Bool) (rn : Reg) (v : Word) :
    (s.writeBack wb rn v).mem = s.mem := by
  unfold State.writeBack; split <;> simp
@[simp] theorem State.writeBack_written (s : State) (wb : Bool) (rn : Reg) (v : Word) :
    (s.writeBack wb rn v).written = s.written := by
  unfold State.writeBack; split <;> simp
@[simp] theorem State.writeBack_memMap (s : State) (wb : Bool) (rn : Reg) (v : Word) :
    (s.writeBack wb rn v).memMap = s.memMap := by
  unfold State.writeBack; split <;> simp
@[simp] theorem State.writeBack_aborts (s : State) (wb : Bool) (rn : Reg) (v : Word) :
    (s.writeBack wb rn v).aborts = s.aborts := by
  unfold State.writeBack; split <;> simp
@[simp] theorem State.writeBack_coprocs (s : State) (wb : Bool) (rn : Reg) (v : Word) :
    (s.writeBack wb rn v).coprocs = s.coprocs := by
  unfold State.writeBack; split <;> simp
@[simp] theorem State.writeBack_cpState (s : State) (wb : Bool) (rn : Reg) (v : Word) :
    (s.writeBack wb rn v).cpState = s.cpState := by
  unfold State.writeBack; split <;> simp
@[simp] theorem State.writeBack_lines (s : State) (wb : Bool) (rn : Reg) (v : Word) :
    (s.writeBack wb rn v).lines = s.lines := by
  unfold State.writeBack; split <;> simp
@[simp] theorem State.writeBack_userXfer (s : State) (wb : Bool) (rn : Reg) (v : Word) :
    (s.writeBack wb rn v).userXfer = s.userXfer := by
  unfold State.writeBack; split <;> simp
@[simp] theorem State.writeBack_bank (s : State) (wb : Bool) (rn : Reg) (v : Word) :
    (s.writeBack wb rn v).bank = s.bank := by
  simp [State.bank]

theorem State.writeBack_pc (s : State) (wb : Bool) (rn : Reg) (v : Word) (h : wb = true → rn ≠ 15#4) :
    (s.writeBack wb rn v).pc = s.pc := by
  unfold State.writeBack
  split
  · exact s.setReg_pc rn v (h (by assumption))
  · rfl

/-! ## A store -/

@[simp] theorem State.stored_gpr (s : State) (z : Size) (a v : Word) : (s.stored z a v).gpr = s.gpr := rfl
@[simp] theorem State.stored_pc (s : State) (z : Size) (a v : Word) : (s.stored z a v).pc = s.pc := rfl
@[simp] theorem State.stored_cpsr (s : State) (z : Size) (a v : Word) : (s.stored z a v).cpsr = s.cpsr := rfl
@[simp] theorem State.stored_spsr (s : State) (z : Size) (a v : Word) : (s.stored z a v).spsr = s.spsr := rfl
@[simp] theorem State.stored_memMap (s : State) (z : Size) (a v : Word) : (s.stored z a v).memMap = s.memMap := rfl
@[simp] theorem State.stored_aborts (s : State) (z : Size) (a v : Word) : (s.stored z a v).aborts = s.aborts := rfl
@[simp] theorem State.stored_coprocs (s : State) (z : Size) (a v : Word) : (s.stored z a v).coprocs = s.coprocs := rfl
@[simp] theorem State.stored_cpState (s : State) (z : Size) (a v : Word) : (s.stored z a v).cpState = s.cpState := rfl
@[simp] theorem State.stored_lines (s : State) (z : Size) (a v : Word) : (s.stored z a v).lines = s.lines := rfl
@[simp] theorem State.stored_userXfer (s : State) (z : Size) (a v : Word) : (s.stored z a v).userXfer = s.userXfer := rfl
@[simp] theorem State.stored_mem (s : State) (z : Size) (a v : Word) : (s.stored z a v).mem = s.mem.store z a v := rfl
@[simp] theorem State.stored_written (s : State) (z : Size) (a v : Word) :
    (s.stored z a v).written = s.written.markAll (accessBytes z a) := rfl
@[simp] theorem State.stored_bank (s : State) (z : Size) (a v : Word) : (s.stored z a v).bank = s.bank := rfl
@[simp] theorem State.stored_privileged (s : State) (z : Size) (a v : Word) :
    (s.stored z a v).privileged = s.privileged := rfl

/-! ## Taking an exception (R350) -/

@[simp] theorem takeException_mem (e : Exc) (s : State) : (takeException e s).mem = s.mem := by
  simp [takeException]
@[simp] theorem takeException_written (e : Exc) (s : State) : (takeException e s).written = s.written := by
  simp [takeException]
@[simp] theorem takeException_memMap (e : Exc) (s : State) : (takeException e s).memMap = s.memMap := by
  simp [takeException]
@[simp] theorem takeException_aborts (e : Exc) (s : State) : (takeException e s).aborts = s.aborts := by
  simp [takeException]
@[simp] theorem takeException_coprocs (e : Exc) (s : State) : (takeException e s).coprocs = s.coprocs := by
  simp [takeException]
@[simp] theorem takeException_cpState (e : Exc) (s : State) : (takeException e s).cpState = s.cpState := by
  simp [takeException]
@[simp] theorem takeException_lines (e : Exc) (s : State) : (takeException e s).lines = s.lines := by
  simp [takeException]
@[simp] theorem takeException_pc (e : Exc) (s : State) : (takeException e s).pc = Config.vectorBase + e.vector := rfl
@[simp] theorem takeException_userXfer (e : Exc) (s : State) : (takeException e s).userXfer = false := rfl
@[simp] theorem takeException_cpsr (e : Exc) (s : State) :
    (takeException e s).cpsr = Psr.entered s.cpsr (e == .fiq || Psr.f s.cpsr) e.mode := rfl
@[simp] theorem takeException_spsr (e : Exc) (s : State) : (takeException e s).spsr = s.spsr.set e.bank s.cpsr := rfl
@[simp] theorem takeException_gpr (e : Exc) (s : State) :
    (takeException e s).gpr = s.gpr.set (e.bank.index 14#4) (s.pc + e.linkOffset) := by
  simp [takeException, State.setBankReg]

end Sys2Proof.Machine
end

