-- ==== Sys2Proof/Laws/Ops.lean ====
section
/-!
SUPPORT. Laws/Ops.lean: one lemma for each shared operation that says once everything it can do when it answers a next
state (`_next`), and one that says what it answers when its conditions hold (`_eq`).
-/

namespace Sys2Proof.Machine

/-! ## Ends of an instruction -/

theorem advance_eq (s : State) (h : s.hasNext = true) : advance s = .next (s.withPc (s.pc + 4#32)) := by
  simp only [State.hasNext, decide_eq_true_eq] at h
  rw [advance, if_neg (Nat.not_le.mpr h)]

/-- Sequential execution at the end of the address space is refused (R28). -/
theorem advance_wrap (s : State) (h : s.hasNext = false) : advance s = .refused .sequentialWrap := by
  simp only [State.hasNext, decide_eq_false_iff_not] at h
  rw [advance, if_pos (Nat.not_lt.mp h)]

theorem advance_next {s t : State} (h : advance s = .next t) : s.hasNext = true ∧ t = s.withPc (s.pc + 4#32) := by
  unfold advance at h
  split at h
  · cases h
  · next hn =>
    injection h with h
    exact ⟨by simp only [State.hasNext, decide_eq_true_eq]; omega, h.symm⟩

theorem branchTo_eq (v : Word) (s : State) (h : wordAligned v = true) : branchTo v s = .next (s.withPc v) := by
  simp [branchTo, h]

theorem branchTo_next {v : Word} {s t : State} (h : branchTo v s = .next t) :
    wordAligned v = true ∧ t = s.withPc v := by
  unfold branchTo at h
  split at h
  · next hv => injection h with h; exact ⟨hv, h.symm⟩
  · cases h

theorem branchExchange_next {v : Word} {s t : State} (h : branchExchange v s = .next t) :
    (v.getLsbD 0 = false → v.getLsbD 1 = false) ∧
      t = (s.withCpsr (Psr.withT s.cpsr (v.getLsbD 0))).withPc (clearBit0 v) := by
  unfold branchExchange at h
  split at h
  · cases h
  · next hv => injection h with h; exact ⟨by simpa using hv, h.symm⟩

theorem branchExchange_eq (v : Word) (s : State) (h : v.getLsbD 0 = true ∨ v.getLsbD 1 = false) :
    branchExchange v s = .next ((s.withCpsr (Psr.withT s.cpsr (v.getLsbD 0))).withPc (clearBit0 v)) := by
  unfold branchExchange
  rw [if_neg]
  rcases h with h | h <;> simp only [h] <;> simp

/-- The target of an exchanging branch that stays in ARM state is word-aligned (R26). -/
theorem wordAligned_clearBit0 (v : Word) (h1 : v.getLsbD 1 = false) :
    wordAligned (clearBit0 v) = true := by
  have hm : ∀ k, k < 2 → (0xFFFFFFFE#32).getLsbD k = decide (k = 1) := by decide
  simp only [wordAligned, beq_iff_eq]
  apply BitVec.eq_of_getLsbD_eq
  intro k hk
  simp only [clearBit0, BitVec.getLsbD_extractLsb', BitVec.getLsbD_and, Nat.zero_add, hm k hk]
  rcases (by omega : k = 0 ∨ k = 1) with rfl | rfl
  · simp
  · simpa using h1

theorem raise_next {e : Exc} {s t : State} (h : raise e s = .next t) : t = takeException e s := by
  injection h with h; exact h.symm

theorem returnTo_next {v : Word} {s t : State} (h : returnTo v s = .next t) :
    ∃ saved, s.savedPsr = some saved ∧ Psr.legalMode (Psr.mode saved) = true ∧
      (Psr.t saved = false → wordAligned v = true) ∧
      t = (s.withCpsr saved).withPc (if Psr.t saved then clearBit0 v else v) := by
  unfold returnTo at h
  split at h
  · cases h
  · next saved hs =>
    refine ⟨saved, hs, ?_⟩
    split at h
    · cases h
    · next hl =>
      split at h
      · next ht => injection h with h; simp_all
      · next ht =>
        split at h
        · next ha => injection h with h; simp_all
        · cases h

/-! ## The condition and the hazard -/

theorem always_eq (named : List Reg) (s : State) (body : State → Result) (h : s.mayName named = true) :
    always named s body = body (s.withUserXfer false) := by
  simp only [State.mayName, Bool.not_eq_true'] at h
  simp [always, h]

theorem always_next {named : List Reg} {s t : State} {body : State → Result} (h : always named s body = .next t) :
    s.mayName named = true ∧ body (s.withUserXfer false) = .next t := by
  unfold always at h
  split at h
  · cases h
  · next hn => exact ⟨by rw [State.mayName, Bool.not_eq_true']; exact Bool.eq_false_iff.mpr hn, h⟩

theorem conditional_eq (c : Cond) (named : List Reg) (s : State) (body : State → Result)
    (hc : condHolds c s.cpsr = true) (hn : s.mayName named = true) :
    conditional c named s body = body (s.withUserXfer false) := by
  simp [conditional, hc, always_eq named s body hn]

/-- An instruction whose condition fails changes nothing but R15 (R27). -/
theorem conditional_failed (c : Cond) (named : List Reg) (s : State) (body : State → Result)
    (hc : condHolds c s.cpsr = false) (hn : s.hasNext = true) : conditional c named s body = .next s.advanced := by
  simp only [conditional, hc, Bool.false_eq_true, if_false]
  rw [advance_eq (s.withUserXfer false) hn]; rfl

theorem conditional_next {c : Cond} {named : List Reg} {s t : State} {body : State → Result}
    (h : conditional c named s body = .next t) :
    (condHolds c s.cpsr = true ∧ s.mayName named = true ∧ body (s.withUserXfer false) = .next t) ∨
      (condHolds c s.cpsr = false ∧ s.hasNext = true ∧ t = s.advanced) := by
  unfold conditional at h
  split at h
  · next hc => exact .inl ⟨hc, always_next h⟩
  · next hc => obtain ⟨h1, h2⟩ := advance_next h; exact .inr ⟨by simpa using hc, h1, h2⟩

/-! ## Accesses -/

theorem Access.andThen_next {α : Type} {x : Access α} {onAbort : Result} {k : α → Result} {t : State}
    (h : x.andThen onAbort k = .next t) : (∃ a, x = .ok a ∧ k a = .next t) ∨ (x = .abort ∧ onAbort = .next t) := by
  cases x with
  | ok a => exact .inl ⟨a, rfl, h⟩
  | abort => exact .inr ⟨rfl, h⟩
  | fault f => cases h
  | refused r => cases h

theorem checked_eq {α : Type} (s : State) (z : Size) (a : Word) (kind : AccessKind) (p : Bool) (v : α)
    (h : s.canAccess z a kind p = true) : checked s z a kind p v = .ok v := by
  simp only [State.canAccess, Bool.and_eq_true, Bool.not_eq_true'] at h
  simp [checked, h]

theorem checked_ok {α : Type} {s : State} {z : Size} {a : Word} {kind : AccessKind} {p : Bool} {v w : α}
    (h : checked s z a kind p v = .ok w) : s.canAccess z a kind p = true ∧ w = v := by
  unfold checked at h
  split at h
  · cases h
  · split at h
    · cases h
    · split at h
      · cases h
      · injection h with h; simp_all [State.canAccess]

/-- A misaligned access is refused (R64). -/
theorem checked_misaligned {α : Type} (s : State) (z : Size) (a : Word) (kind : AccessKind) (p : Bool) (v : α)
    (h : z.aligned a = false) : checked s z a kind p v = .refused .misalignedAccess := by
  simp [checked, h]

/-- An aligned access outside `MEM_MAP` ends the run (R66, R67). -/
theorem checked_unmapped {α : Type} (s : State) (z : Size) (a : Word) (kind : AccessKind) (p : Bool) (v : α)
    (h : z.aligned a = true) (hm : s.inMap z a = false) : checked s z a kind p v = .fault (.outsideMemMap a) := by
  simp [checked, h, hm]

/-- An aligned access in `MEM_MAP` aborts where `ABORTS` says so (R79). -/
theorem checked_abort {α : Type} (s : State) (z : Size) (a : Word) (kind : AccessKind) (p : Bool) (v : α)
    (h : z.aligned a = true) (hm : s.inMap z a = true) (ha : s.abortsAt z a kind p = true) :
    checked s z a kind p v = .abort := by
  simp [checked, h, hm, ha]

theorem memRead_eq (s : State) (z : Size) (a : Word) (p : Bool) (h : s.canAccess z a .read p = true) :
    memRead s z a p = .ok (s.mem.load z a) := checked_eq s z a .read p _ h

theorem memRead_ok {s : State} {z : Size} {a : Word} {p : Bool} {w : Word} (h : memRead s z a p = .ok w) :
    s.canAccess z a .read p = true ∧ w = s.mem.load z a := checked_ok h

theorem memWrite_eq (s : State) (z : Size) (a v : Word) (p : Bool) (h : s.canAccess z a .write p = true) :
    memWrite s z a v p = .ok (s.stored z a v) := checked_eq s z a .write p _ h

theorem memWrite_ok {s s' : State} {z : Size} {a v : Word} {p : Bool} (h : memWrite s z a v p = .ok s') :
    s.canAccess z a .write p = true ∧ s' = s.stored z a v := checked_ok h

/-- The base register after a Data Abort, and then the entry (R80, R346). -/
theorem dataAbort_next {rn : Reg} {wb : Bool} {base final : Word} {s t : State}
    (h : dataAbort rn wb base final s = .next t) :
    t = takeException .dataAbort s ∨ (rn ≠ 15#4 ∧ ∃ v, t = takeException .dataAbort (s.setReg rn v)) := by
  unfold dataAbort at h
  have h := raise_next h
  split at h
  · exact .inl h
  · next hr => exact .inr ⟨hr, _, h⟩

/-! ## The step -/

/-- A step that answers a next state has taken an interrupt, or a Prefetch Abort, or has run the decoded instruction
(R27). -/
theorem stepWith_next {run : Instr → State → Result} {s t : State} (h : stepWith run s = .next t) :
    (∃ e, s.interrupt = some e ∧ t = takeException e s.sampled) ∨
      (s.interrupt = none ∧ Psr.t s.cpsr = false ∧
        ((fetch s.sampled = .abort ∧ t = takeException .prefetchAbort s.sampled) ∨
          ∃ bytes i rest, fetch s.sampled = .ok bytes ∧ decodeBytes bytes = .ok (i, rest) ∧
            run i s.sampled = .next t)) := by
  unfold stepWith at h
  split at h
  · next e he => exact .inl ⟨e, he, raise_next h⟩
  · next hi =>
    split at h
    · cases h
    · next ht =>
      refine .inr ⟨hi, by simpa using ht, ?_⟩
      rcases Access.andThen_next h with ⟨bytes, hb, hk⟩ | ⟨ha, hr⟩
      · right
        split at hk
        · next i rest hd => exact ⟨bytes, i, rest, hb, hd, hk⟩
        · cases hk
      · exact .inl ⟨ha, raise_next hr⟩

end Sys2Proof.Machine
end

