-- ==== Sys2Proof/Laws/Frames.lean ====
section
/-!
SUPPORT. Laws/Frames.lean: one lemma for each shared frame of the instructions that says once everything it can do when it
answers a next state. In each of them the body runs on a state `s` that the condition has already let pass.
-/

namespace Sys2Proof.Machine

/-! ## Data processing -/

theorem writeResult_next {sf : Bool} {rd : Reg} {r : Alu} {s t : State} (h : writeResult sf rd r s = .next t) :
    (rd = 15#4 ∧ sf = true ∧ returnTo r.result s = .next t) ∨
      (rd = 15#4 ∧ sf = false ∧ branchTo r.result s = .next t) ∨
      (rd ≠ 15#4 ∧ s.hasNext = true ∧
        t = ((if sf then s.withCpsr (aluFlags s r) else s).setReg rd r.result).withPc (s.pc + 4#32)) := by
  unfold writeResult at h
  split at h
  · next hrd =>
    split at h
    · next hs => exact .inl ⟨hrd, hs, h⟩
    · next hs => exact .inr (.inl ⟨hrd, by simpa using hs, h⟩)
  · next hrd =>
    obtain ⟨h1, h2⟩ := advance_next h
    have hpc : ((if sf then s.withCpsr (aluFlags s r) else s).setReg rd r.result).pc = s.pc := by
      rw [State.setReg_pc _ _ _ hrd]; split <;> rfl
    refine .inr (.inr ⟨hrd, ?_, ?_⟩)
    · simpa [State.hasNext, hpc] using h1
    · rw [h2, hpc]

theorem dataProcessing_next {op : AluOp} {c : Cond} {sf : Bool} {rd : Reg} {rn : Option Reg} {o : Operand2}
    {s t : State} (h : dataProcessing op c sf rd rn o s = .next t) :
    (condHolds c s.cpsr = false ∧ s.hasNext = true ∧ t = s.advanced) ∨
      (condHolds c s.cpsr = true ∧ s.mayName (rd :: rn.toList ++ operand2Regs o) = true ∧
        namesPc (rd :: rn.toList ++ operand2Regs o) o = false ∧
        writeResult sf rd (aluResult op rn o (s.withUserXfer false)) (s.withUserXfer false) = .next t) := by
  unfold dataProcessing at h
  rcases conditional_next h with ⟨hc, hn, hb⟩ | hf
  · split at hb
    · cases hb
    · next hp => exact .inr ⟨hc, hn, by simpa using hp, hb⟩
  · exact .inl hf

theorem compare_next {op : AluOp} {c : Cond} {rn : Reg} {o : Operand2} {s t : State}
    (h : compare op c rn o s = .next t) :
    (condHolds c s.cpsr = false ∧ s.hasNext = true ∧ t = s.advanced) ∨
      (condHolds c s.cpsr = true ∧ s.mayName (rn :: operand2Regs o) = true ∧ namesPc (rn :: operand2Regs o) o = false ∧
        s.hasNext = true ∧
        t = s.advanced.withCpsr (aluFlags s (aluResult op (some rn) o s))) := by
  unfold compare at h
  rcases conditional_next h with ⟨hc, hn, hb⟩ | hf
  · split at hb
    · cases hb
    · next hp =>
      obtain ⟨h1, h2⟩ := advance_next hb
      exact .inr ⟨hc, hn, by simpa using hp, h1, h2⟩
  · exact .inl hf

theorem registersOnly_next {c : Cond} {named : List Reg} {clash : Bool} {s t : State} {effect : State → State}
    (h : registersOnly c named clash s effect = .next t) :
    (condHolds c s.cpsr = false ∧ s.hasNext = true ∧ t = s.advanced) ∨
      (condHolds c s.cpsr = true ∧ s.mayName named = true ∧ (∀ r ∈ named, r ≠ 15#4) ∧ clash = false ∧
        advance (effect (s.withUserXfer false)) = .next t) := by
  unfold registersOnly at h
  rcases conditional_next h with ⟨hc, hn, hb⟩ | hf
  · split at hb
    · cases hb
    · next hp =>
      split at hb
      · cases hb
      · next hcl => exact .inr ⟨hc, hn, fun r hr he => hp (by simpa [he] using hr), by simpa using hcl, hb⟩
  · exact .inl hf

/-! ## Single transfers -/

theorem finishLoad_next {op : SingleOp} {rd : Reg} {data : Word} {s t : State}
    (h : finishLoad op rd data s = .next t) :
    (op = .ldrPc ∧ branchExchange data s = .next t) ∨ (op ≠ .ldrPc ∧ advance (s.setReg rd (op.extend data)) = .next t) := by
  unfold finishLoad at h
  split at h
  · next ho => exact .inl ⟨ho, h⟩
  · next ho => exact .inr ⟨ho, h⟩

theorem singleAccess_next {op : SingleOp} {rn rd : Reg} {wb : Bool} {index address : Word} {s t : State}
    (h : singleAccess op rn rd wb index address s = .next t) :
    dataAbort rn wb (s.reg rn) index s = .next t ∨
      (op.isLoad = true ∧ s.canAccess op.size address .read (op.privilege s) = true ∧
        finishLoad op rd (s.mem.load op.size address) (s.writeBack wb rn index) = .next t) ∨
      (op.isLoad = false ∧ s.canAccess op.size address .write (op.privilege s) = true ∧
        advance ((s.stored op.size address (s.storedReg s.bank rd)).writeBack wb rn index) = .next t) := by
  unfold singleAccess at h
  split at h
  · next hl =>
    rcases Access.andThen_next h with ⟨a, ha, hk⟩ | ⟨_, hr⟩
    · obtain ⟨h1, rfl⟩ := memRead_ok ha
      exact .inr (.inl ⟨hl, h1, hk⟩)
    · exact .inl hr
  · next hl =>
    rcases Access.andThen_next h with ⟨a, ha, hk⟩ | ⟨_, hr⟩
    · obtain ⟨h1, rfl⟩ := memWrite_ok ha
      exact .inr (.inr ⟨by simpa using hl, h1, hk⟩)
    · exact .inl hr

theorem singleTransfer_next {op : SingleOp} {c : Cond} {ix : IndexMode} {u : Bool} {rn rd : Reg} {off : Offset}
    {s t : State} (h : singleTransfer op c ix u rn rd off s = .next t) :
    (condHolds c s.cpsr = false ∧ s.hasNext = true ∧ t = s.advanced) ∨
      (condHolds c s.cpsr = true ∧ s.mayName (rn :: rd :: (offsetReg off).toList) = true ∧
        singleRestriction op (writesBack ix) rn rd (offsetReg off) = none ∧
        singleAccess op rn rd (writesBack ix) (indexed u (s.reg rn) (offsetValue off s))
          (transferAddress ix (s.reg rn) (indexed u (s.reg rn) (offsetValue off s))) (s.withUserXfer false) =
            .next t) := by
  unfold singleTransfer at h
  rcases conditional_next h with ⟨hc, hn, hb⟩ | hf
  · split at hb
    · cases hb
    · next hp => exact .inr ⟨hc, hn, hp, hb⟩
  · exact .inl hf

/-! ## Blocks -/

/-- What a block of loads reads, access by access: the registers paired with the words at rising addresses (R280). -/
theorem loadBlock_eq (s : State) (a : Word) (regs : List Reg)
    (h : s.canAccessWords .read a regs.length = true) :
    loadBlock s a regs =
      ((List.range regs.length).map fun j => (regs.getD j 0#4, s.mem.load .word (a + blockBytes j)), .ok ()) := by
  induction regs generalizing a with
  | nil => rfl
  | cons r rest ih =>
    have h0 : s.canAccess .word a .read s.privileged = true := by
      have := List.all_eq_true.mp h 0 (by simp)
      simpa [blockBytes] using this
    have hs : ∀ j, a + 4#32 + blockBytes j = a + blockBytes (j + 1) := by
      intro j
      rw [BitVec.add_assoc]
      congr 1
      apply BitVec.eq_of_toNat_eq
      simp [blockBytes]
      omega
    have hrest : s.canAccessWords .read (a + 4#32) rest.length = true := by
      apply List.all_eq_true.mpr
      intro j hj
      rw [hs]
      exact List.all_eq_true.mp h (j + 1) (by simp at hj ⊢; omega)
    have e := ih (a + 4#32) hrest
    simp only [loadBlock, memRead_eq s .word a _ h0, e]
    simp only [List.length_cons, List.range_succ_eq_map, List.map_cons, List.map_map]
    congr 2
    · simp [blockBytes]
    · apply List.map_congr_left
      intro j _
      simp [hs]

/-- A block of loads names its registers in order, whatever happens to it. -/
theorem loadBlock_regs (s : State) (a : Word) (regs : List Reg) :
    ∀ p ∈ (loadBlock s a regs).1, p.1 ∈ regs := by
  induction regs generalizing a with
  | nil => simp [loadBlock]
  | cons r rest ih =>
    simp only [loadBlock]
    split
    · intro p hp
      rcases List.mem_cons.mp hp with rfl | hp
      · exact List.mem_cons_self ..
      · exact List.mem_cons_of_mem r (ih _ p hp)
    all_goals simp

/-- A block of stores changes memory and the record of written bytes only. -/
theorem storeBlock_frame (s : State) (a : Word) (words : List Word) :
    (storeBlock s a words).1 =
      (s.withMem (storeBlock s a words).1.mem).withWritten (storeBlock s a words).1.written := by
  induction words generalizing s a with
  | nil => rfl
  | cons v rest ih =>
    simp only [storeBlock]
    split
    · next s' hs =>
      obtain ⟨_, rfl⟩ := memWrite_ok hs
      rw [ih]
      rfl
    all_goals rfl

/-- A block of stores keeps the canonical forms. -/
theorem storeBlock_wf (s : State) (a : Word) (words : List Word) (hm : Memory.wf s.mem = true)
    (hw : AddrSet.wf s.written = true) :
    Memory.wf (storeBlock s a words).1.mem = true ∧ AddrSet.wf (storeBlock s a words).1.written = true := by
  induction words generalizing s a with
  | nil => exact ⟨hm, hw⟩
  | cons v rest ih =>
    simp only [storeBlock]
    split
    · next s' hs =>
      obtain ⟨_, rfl⟩ := memWrite_ok hs
      exact ih _ _ (State.stored_wf s .word a v hm hw).1 (State.stored_wf s .word a v hm hw).2
    all_goals exact ⟨hm, hw⟩

/-- A block of loads answers a next state only through its end or through a Data Abort. -/
theorem loadRegs_next {am : BlockMode} {wb : Bool} {rn : Reg} {regs : List Reg} {count : Nat} {b : Bank} {s t : State}
    {k : List (Reg × Word) → Result} (h : loadRegs am wb rn regs count b s k = .next t) :
    ∃ vals, (∀ p ∈ vals, p.1 ∈ regs) ∧
      (k vals = .next t ∨
        dataAbort rn wb (s.reg rn) (blockFinal am (s.reg rn) count) (s.setBankRegs b vals) = .next t) := by
  have hr := loadBlock_regs s (blockStart am (s.reg rn) count) regs
  unfold loadRegs at h
  split at h
  · next vals _ he => rw [he] at hr; exact ⟨vals, hr, .inl h⟩
  · next vals he => rw [he] at hr; exact ⟨vals, hr, .inr h⟩
  · cases h
  · cases h

theorem loadPcWord_next {am : BlockMode} {wb : Bool} {rn : Reg} {list : BitVec 15} {vals : List (Reg × Word)}
    {s t : State} {k : Word → Result} (h : loadPcWord am wb rn list vals s k = .next t) :
    (∃ data, k data = .next t) ∨
      dataAbort rn wb (s.reg rn) (blockFinal am (s.reg rn) ((listRegs list).length + 1)) (s.setBankRegs s.bank vals) =
        .next t := by
  rcases Access.andThen_next h with ⟨a, _, hk⟩ | ⟨_, hr⟩
  · exact .inl ⟨a, hk⟩
  · exact .inr hr

/-- A block of stores answers a next state only through its end or through a Data Abort. -/
theorem storeRegs_next {am : BlockMode} {wb : Bool} {rn : Reg} {words : List Word} {s t : State} {k : State → Result}
    (h : storeRegs am wb rn words s k = .next t) :
    ∃ s', s' = (storeBlock s (blockStart am (s.reg rn) words.length) words).1 ∧
      (k s' = .next t ∨
        dataAbort rn wb (s.reg rn) (blockFinal am (s.reg rn) words.length) s' = .next t) := by
  unfold storeRegs at h
  split at h
  · next s' _ he => exact ⟨s', by rw [he], .inl h⟩
  · next s' he => exact ⟨s', by rw [he], .inr h⟩
  · cases h
  · cases h

@[simp] theorem remembering_ok (t : State) : remembering (.next t) = .next (t.withUserXfer true) := rfl
@[simp] theorem remembering_fault (f : Fault) : remembering (.fault f) = .fault f := rfl
@[simp] theorem remembering_refused (e : Refusal) : remembering (.refused e) = .refused e := rfl

/-- A user-register transfer answers a next state only with the transfer remembered (R403; after an abort, log 11). -/
theorem remembering_next {r : Result} {t : State} (h : remembering r = .next t) :
    ∃ u, r = .next u ∧ t = u.withUserXfer true := by
  cases r with
  | next u => injection h with h; exact ⟨u, rfl, h.symm⟩
  | fault f => cases h
  | refused e => cases h

/-! ## Swaps and coprocessors -/

theorem swap_next {z : Size} {c : Cond} {rn rd rm : Reg} {s t : State} (h : swap z c rn rd rm s = .next t) :
    (condHolds c s.cpsr = false ∧ s.hasNext = true ∧ t = s.advanced) ∨
      (condHolds c s.cpsr = true ∧ rn ≠ 15#4 ∧ rd ≠ 15#4 ∧ rm ≠ 15#4 ∧ rn ≠ rm ∧ rn ≠ rd ∧
        (t = takeException .dataAbort (s.withUserXfer false) ∨
          advance (((s.withUserXfer false).stored z (s.reg rn) (s.reg rm)).setReg rd (s.mem.load z (s.reg rn))) =
            .next t)) := by
  unfold swap at h
  rcases conditional_next h with ⟨hc, _, hb⟩ | hf
  · split at hb
    · cases hb
    · next h1 =>
      split at hb
      · cases hb
      · next h2 =>
        simp only [not_or] at h1 h2
        refine .inr ⟨hc, h1.1, h1.2.1, h1.2.2, h2.1, h2.2, ?_⟩
        rcases Access.andThen_next hb with ⟨v, hv, hk⟩ | ⟨_, hr⟩
        · obtain ⟨_, rfl⟩ := memRead_ok hv
          rcases Access.andThen_next hk with ⟨s', hs', hk'⟩ | ⟨_, hr⟩
          · obtain ⟨_, rfl⟩ := memWrite_ok hs'
            exact .inr hk'
          · exact .inl (raise_next hr)
        · exact .inl (raise_next hr)
  · exact .inl hf

theorem cpInstr_next {c : Option Cond} {named : List Reg} {p : BitVec 4} {bits : Word} {s t : State}
    {body : State → Result} (h : cpInstr c named p bits s body = .next t) :
    (∃ c', c = some c' ∧ condHolds c' s.cpsr = false ∧ s.hasNext = true ∧ t = s.advanced) ∨
      (s.mayName named = true ∧
        ((s.cpTakes p bits = true ∧ body (s.withUserXfer false) = .next t) ∨
          (s.cpTakes p bits = false ∧ t = takeException .undefined (s.withUserXfer false)))) := by
  have key : ∀ {s' : State}, (if s'.cpTakes p bits then body s' else raise .undefined s') = .next t →
      (s'.cpTakes p bits = true ∧ body s' = .next t) ∨ (s'.cpTakes p bits = false ∧ t = takeException .undefined s') := by
    intro s' h'
    split at h'
    · next hp => exact .inl ⟨hp, h'⟩
    · next hp => exact .inr ⟨by simpa using hp, raise_next h'⟩
  unfold cpInstr at h
  split at h
  · next c' =>
    rcases conditional_next h with ⟨_, hn, hb⟩ | ⟨hc, hx, ht⟩
    · exact .inr ⟨hn, key hb⟩
    · exact .inl ⟨c', rfl, hc, hx, ht⟩
  · obtain ⟨hn, hb⟩ := always_next h
    exact .inr ⟨hn, key hb⟩

/-- The words of an LDC change the state of its coprocessor only. -/
theorem ldcWords_frame (p : BitVec 4) (bits : Word) (s : State) (j : Nat) (a : Word) (n : Nat) :
    (ldcWords p bits s j a n).1 = s.withCpState (ldcWords p bits s j a n).1.cpState := by
  induction n generalizing s j a with
  | zero => rfl
  | succ n ih =>
    simp only [ldcWords]
    split
    · rw [ih]; rfl
    all_goals rfl

/-- The words of an LDC or STC change memory, the record of written bytes and coprocessor states only. -/
theorem cpWords_frame (load : Bool) (p : BitVec 4) (bits a : Word) (s : State) :
    (cpWords load p bits a s).1 =
      ((s.withMem (cpWords load p bits a s).1.mem).withWritten (cpWords load p bits a s).1.written).withCpState
        (cpWords load p bits a s).1.cpState := by
  unfold cpWords
  split
  · rw [ldcWords_frame]; rfl
  · unfold stcWords; rw [storeBlock_frame]; rfl

/-- The words of an LDC or STC keep the canonical forms. -/
theorem cpWords_wf (load : Bool) (p : BitVec 4) (bits a : Word) (s : State) (hm : Memory.wf s.mem = true)
    (hw : AddrSet.wf s.written = true) :
    Memory.wf (cpWords load p bits a s).1.mem = true ∧ AddrSet.wf (cpWords load p bits a s).1.written = true := by
  unfold cpWords
  split
  · rw [ldcWords_frame]; exact ⟨hm, hw⟩
  · exact storeBlock_wf _ _ _ hm hw

theorem cpTransfer_next {load : Bool} {c : Option Cond} {ix : IndexMode} {u : Bool} {rn : Reg} {offset : Word}
    {p : BitVec 4} {bits : Word} {s t : State} (h : cpTransfer load c ix u rn offset p bits s = .next t) :
    (∃ c', c = some c' ∧ condHolds c' s.cpsr = false ∧ s.hasNext = true ∧ t = s.advanced) ∨
      t = takeException .undefined (s.withUserXfer false) ∨
      ((writesBack ix = true → rn ≠ 15#4) ∧ ∃ s' addr, s' = (cpWords load p bits addr (s.withUserXfer false)).1 ∧
        (advance (s'.writeBack (writesBack ix) rn (indexed u (s.reg rn) offset)) = .next t ∨
          dataAbort rn (writesBack ix) (s.reg rn) (indexed u (s.reg rn) offset) s' = .next t)) := by
  rcases cpInstr_next h with hf | ⟨_, ⟨_, hb⟩ | ⟨_, hu⟩⟩
  · exact .inl hf
  · right; right
    split at hb
    · cases hb
    · next hw =>
      refine ⟨by intro h1 h2; simp [h1, h2] at hw, ?_⟩
      split at hb
      · next s' _ he => exact ⟨s', _, by rw [he], .inl hb⟩
      · next s' he => exact ⟨s', _, by rw [he], .inr hb⟩
      · cases hb
      · cases hb
  · exact .inr (.inl hu)

end Sys2Proof.Machine
end

