-- ==== Sys2Proof/Laws/Results.lean ====
section
/-!
SUPPORT. Laws/Results.lean: what each shared frame of the instructions answers when its conditions hold: the counterparts
of the inversion lemmas of Laws/Frames.lean.
-/

namespace Sys2Proof.Machine

theorem State.runs_iff (s : State) (c : Cond) (named : List Reg) :
    s.runs c named = true ↔ condHolds c s.cpsr = true ∧ s.mayName named = true ∧ s.hasNext = true := by
  simp [State.runs, State.starts, and_assoc]

theorem State.starts_iff (s : State) (c : Cond) (named : List Reg) :
    s.starts c named = true ↔ condHolds c s.cpsr = true ∧ s.mayName named = true := by
  simp [State.starts]

theorem State.setReg_eq (s : State) (r : Reg) (v : Word) (hr : r ≠ 15#4) :
    s.setReg r v = s.withGpr (s.gprWith r v) := by
  simp [State.setReg, State.setBankReg, hr, State.gprWith]

theorem State.reg_eq (s : State) (r : Reg) (hr : r ≠ 15#4) : s.reg r = s.gpr[s.bank.index r] := by
  simp [State.reg, State.bankReg, hr]

/-! ## What does not read the memory of a user-register transfer -/

theorem operand2Eval_withUserXfer (o : Operand2) (s : State) (b : Bool) :
    operand2Eval o (s.withUserXfer b) = operand2Eval o s := by cases o <;> rfl

theorem aluResult_withUserXfer (op : AluOp) (rn : Option Reg) (o : Operand2) (s : State) (b : Bool) :
    aluResult op rn o (s.withUserXfer b) = aluResult op rn o s := by
  unfold aluResult
  rw [operand2Eval_withUserXfer]
  cases rn <;> rfl

theorem aluFlags_eq (s : State) (r : Alu) : aluFlags s r = flagsIf true s.cpsr r.result r.c r.v := rfl

/-! ## Banks -/

@[simp] theorem Psr.mode_flagsIf (sf : Bool) (p r : Word) (c v : Bool) : Psr.mode (flagsIf sf p r c v) = Psr.mode p := by
  cases sf <;> simp [flagsIf]

@[simp] theorem Psr.mode_flagsIf64 (sf : Bool) (p : Word) (r : BitVec 64) :
    Psr.mode (flagsIf64 sf p r) = Psr.mode p := by cases sf <;> simp [flagsIf64]

/-- A write of a CPSR of the same mode leaves the bank. -/
theorem State.gprWith_withCpsr (s : State) (p : Word) (r : Reg) (v : Word) (h : Psr.mode p = Psr.mode s.cpsr) :
    (s.withCpsr p).gprWith r v = s.gprWith r v := by
  simp [State.gprWith, State.bank, State.withCpsr, h]

/-! ## Data processing -/

/-- A data-processing instruction that runs and does not write R15 (R144). -/
theorem dataProcessing_eq (op : AluOp) (c : Cond) (sf : Bool) (rd : Reg) (rn : Option Reg) (o : Operand2) (s : State)
    (hr : s.runs c (rd :: rn.toList ++ operand2Regs o) = true)
    (hp : namesPc (rd :: rn.toList ++ operand2Regs o) o = false) (hd : rd ≠ 15#4) :
    dataProcessing op c sf rd rn o s =
      .next (s.wrote rd (aluResult op rn o s).result
        (flagsIf sf s.cpsr (aluResult op rn o s).result (aluResult op rn o s).c (aluResult op rn o s).v)) := by
  obtain ⟨hc, hm, hn⟩ := (s.runs_iff c _).mp hr
  unfold dataProcessing
  rw [conditional_eq c _ s _ hc hm]
  simp only [hp, writeResult, hd, State.setReg_eq _ _ _ hd, aluResult_withUserXfer, aluFlags_eq]
  generalize aluResult op rn o s = r
  cases sf <;> simp only [Bool.false_eq_true, if_false, if_true] <;> rw [advance_eq _ (by exact hn)]
  · rfl
  · rw [State.gprWith_withCpsr _ _ _ _ (by simp)]; rfl

/-- A test or compare that runs (R144). -/
theorem compare_eq (op : AluOp) (c : Cond) (rn : Reg) (o : Operand2) (s : State)
    (hr : s.runs c (rn :: operand2Regs o) = true) (hp : namesPc (rn :: operand2Regs o) o = false) :
    compare op c rn o s =
      .next { s.advanced with
        cpsr := flagsIf true s.cpsr (aluResult op (some rn) o s).result (aluResult op (some rn) o s).c
          (aluResult op (some rn) o s).v } := by
  obtain ⟨hc, hm, hn⟩ := (s.runs_iff c _).mp hr
  unfold compare
  rw [conditional_eq c _ s _ hc hm]
  simp only [hp, aluResult_withUserXfer, aluFlags_eq]
  generalize aluResult op (some rn) o s = r
  simp only [Bool.false_eq_true, if_false]
  exact (advance_eq _ (by exact hn)).trans rfl

/-- An instruction of the general registers that runs (R180). -/
theorem registersOnly_eq (c : Cond) (named : List Reg) (clash : Bool) (s : State) (effect : State → State)
    (hr : s.runs c named = true) (hp : 15#4 ∉ named) (hk : clash = false)
    (hpc : (effect (s.withUserXfer false)).pc = s.pc) :
    registersOnly c named clash s effect = .next ((effect (s.withUserXfer false)).withPc (s.pc + 4#32)) := by
  obtain ⟨hc, hm, hn⟩ := (s.runs_iff c _).mp hr
  unfold registersOnly
  rw [conditional_eq c _ s _ hc hm]
  have : named.contains 15#4 = false := by simpa using hp
  simp only [this, hk, Bool.false_eq_true, if_false]
  rw [advance_eq _ (by simpa [State.hasNext, hpc] using hn), hpc]

end Sys2Proof.Machine
end

