-- ==== Sys2Proof/Laws/Blocks.lean ====
section
/-!
SUPPORT. Laws/Blocks.lean: what the transfers of several words do: register lists and their ranks, loads of a block into
the registers of a bank, stores of a block, and the words that a coprocessor receives.
-/

namespace Sys2Proof.Machine

/-! ## The words of a block -/

theorem blockBytes_succ (a : Word) (j) : a + 4#32 + blockBytes j = a + blockBytes (j+1) := by
  rw [BitVec.add_assoc]; congr 1; apply BitVec.eq_of_toNat_eq; simp [blockBytes]; omega

theorem State.canAccessWords_succ (s : State) (k a n) : s.canAccessWords k a (n+1) = true ↔ s.canAccess .word a k
    s.privileged = true ∧ s.canAccessWords k (a + 4#32) n = true := by
  unfold State.canAccessWords
  rw [List.range_succ_eq_map, List.all_cons, List.all_map, Bool.and_eq_true]
  simp only [Function.comp_def, blockBytes_succ]
  have : a + blockBytes 0 = a := by simp [blockBytes]
  rw [this]

/-- The first words of an accessible block are accessible. -/
theorem State.canAccessWords_mono (s : State) (kind : AccessKind) (a : Word) (m n : Nat) (h : m ≤ n)
    (hn : s.canAccessWords kind a n = true) : s.canAccessWords kind a m = true := by
  unfold State.canAccessWords at *
  rw [List.all_eq_true] at *
  intro j hj
  exact hn j (List.mem_range.mpr (Nat.lt_of_lt_of_le (List.mem_range.mp hj) h))

/-! ## Register lists -/

/-- Two register numbers below 15 of one bank are one physical register only when they are equal (R29). -/
theorem Bank.index_inj (b : Bank) (r r' : Reg) (h : r.toNat < 15) (h' : r'.toNat < 15) : b.index r = b.index r' ↔ r
    = r' := by
  revert r r'; cases b <;> decide

/-- A register is in the list that a mask of at most 16 bits stands for exactly when its bit is 1. -/
theorem mem_listRegs {n : Nat} (hn : n ≤ 16) (list : BitVec n) (r : Reg) : r ∈ listRegs list ↔ list.getLsbD r.toNat
    = true := by
  simp only [listRegs, List.mem_map, List.mem_filter, List.mem_range]
  constructor
  · rintro ⟨k, ⟨hk, hl⟩, rfl⟩
    have : (BitVec.ofNat 4 k).toNat = k := by simp; omega
    rw [this]; exact hl
  · intro h
    refine ⟨r.toNat, ⟨?_, h⟩, by simp⟩
    apply Classical.byContradiction; intro hx
    rw [BitVec.getLsbD_of_ge _ _ (by omega)] at h; cases h

/-- A list without R15, as a list of 16 bits. -/
theorem listRegs_withoutPc (list : BitVec 15) : listRegs (0b0#1 ++ list) = listRegs list := by
  have hlow : ∀ k ∈ List.range 15, (0b0#1 ++ list).getLsbD k = list.getLsbD k := by
    intro k hk; rw [BitVec.getLsbD_append]; simp [List.mem_range.mp hk]
  have htop : (0b0#1 ++ list).getLsbD 15 = false := by rw [BitVec.getLsbD_append]; simp
  unfold listRegs
  rw [List.range_succ, List.filter_append, List.filter_congr hlow, List.filter_cons, if_neg (by rw [htop]; simp)]
  simp

/-- R15 is the last register of a list that has it. -/
theorem listRegs_withPc (list : BitVec 15) : listRegs (0b1#1 ++ list) = listRegs list ++ [15#4] := by
  have hlow : ∀ k ∈ List.range 15, (0b1#1 ++ list).getLsbD k = list.getLsbD k := by
    intro k hk; rw [BitVec.getLsbD_append]; simp [List.mem_range.mp hk]
  have htop : (0b1#1 ++ list).getLsbD 15 = true := by rw [BitVec.getLsbD_append]; simp
  unfold listRegs
  rw [List.range_succ, List.filter_append, List.filter_congr hlow, List.filter_cons, if_pos htop]
  simp

/-- The set bits of a mask below `m`, rising. -/
def setBits {n : Nat} (list : BitVec n) (m : Nat) := (List.range m).filter fun k => list.getLsbD k

theorem setBits_get {n : Nat} (list : BitVec n) (m k : Nat) (hk : k < m) (h : list.getLsbD k = true) :
   ∃ hlt, (setBits list m)[(setBits list k).length]'hlt = k := by
  have : setBits list m = setBits list k ++ k :: ((List.range (m - k - 1)).map (· + (k+1))).filter fun k => list.getLsbD k := by
    unfold setBits
    have e : List.range m = List.range k ++ k :: ((List.range (m - k - 1)).map (· + (k+1))) := by
      conv => lhs; rw [show m = (k + 1) + (m - k - 1) by omega, List.range_add, List.range_succ]
      simp [Nat.add_comm]
    rw [e, List.filter_append, List.filter_cons, if_pos h]
  refine ⟨?_, ?_⟩
  · rw [this]; simp
  · simp only [this]; rw [List.getElem_append_right (by omega)]; simp

/-- A listed register stands at the place of its rank in the list (R280). -/
theorem listRegs_listRank {n : Nat} (_hn : n ≤ 16) (list : BitVec n) (r : Reg) (h : list.getLsbD r.toNat = true) :
   ∃ hlt, (listRegs list)[listRank list r]'hlt = r := by
  have hrn : r.toNat < n := by
    apply Classical.byContradiction; intro hx
    rw [BitVec.getLsbD_of_ge _ _ (by omega)] at h; cases h
  obtain ⟨hlt, he⟩ := setBits_get list n r.toNat hrn h
  refine ⟨?_, ?_⟩
  · simp only [listRegs, List.length_map]; exact hlt
  · simp only [listRegs, List.getElem_map]
    show BitVec.ofNat 4 ((setBits list n)[(setBits list r.toNat).length]) = r
    rw [he]; simp

/-- A register list has no register twice. -/
theorem nodup_listRegs {n : Nat} (hn : n ≤ 16) (list : BitVec n) : (listRegs list).Nodup := by
  unfold listRegs
  rw [List.Nodup, List.pairwise_map]
  have : (List.range n).Pairwise (fun a b => a ≠ b ) := List.nodup_range
  have h2 : ((List.range n).filter fun k => list.getLsbD k).Nodup := List.Pairwise.filter _ this
  refine List.Pairwise.imp_of_mem ?_ h2
  intro a b ha hb hab h
  have ha := List.mem_range.mp (List.mem_filter.mp ha).1
  have hb := List.mem_range.mp (List.mem_filter.mp hb).1
  have := congrArg BitVec.toNat h
  simp at this; omega

/-! ## Loads of a block -/

/-- Writing registers other than R15 changes the general registers only. -/
theorem State.setBankRegs_eq_withGpr (b : Bank) (l : List (Reg × Word)) (h : ∀ p ∈ l, p.1 ≠ 15#4) (s : State) :
   s.setBankRegs b l = s.withGpr ((s.setBankRegs b l).gpr) := by
  induction l generalizing s with
  | nil => rfl
  | cons p rest ih =>
    obtain ⟨r, v⟩ := p
    simp only [State.setBankRegs]
    rw [ih (fun p hp => h p (List.mem_cons_of_mem _ hp))]
    have : r ≠ 15#4 := h (r,v) (List.mem_cons_self ..)
    simp [State.setBankReg, this, State.withGpr]

/-- After a list of registers below 15, none twice, is written, each holds its value and no other changes. -/
theorem State.getElem_setBankRegs (b : Bank) (l : List (Reg × Word)) (h : ∀ p ∈ l, p.1.toNat < 15) (hnd : (l.map
    Prod.fst).Nodup) (s : State) :
   (∀ p ∈ l, (s.setBankRegs b l).gpr[b.index p.1] = p.2) ∧ ∀ i : Fin 30, (∀ p ∈ l, b.index p.1 ≠ i) → (s.setBankRegs
       b l).gpr[i] = s.gpr[i] := by
  induction l generalizing s with
  | nil => simp [State.setBankRegs]
  | cons p rest ih =>
    obtain ⟨r, v⟩ := p
    have hr : r.toNat < 15 := h (r,v) (List.mem_cons_self ..)
    have hr' : r ≠ 15#4 := by rintro rfl; simp at hr
    simp only [List.map_cons, List.nodup_cons] at hnd
    have ih' := ih (fun p hp => h p (List.mem_cons_of_mem _ hp)) hnd.2 (s.setBankReg b r v)
    simp only [State.setBankRegs]
    refine ⟨?_, fun i hi => ?_⟩
    · intro p hp
      rcases List.mem_cons.mp hp with rfl | hp
      · rw [ih'.2]
        · simp [State.setBankReg, hr', State.withGpr]
        · intro q hq he
          rw [Bank.index_inj _ _ _ (h q (List.mem_cons_of_mem _ hq)) hr] at he
          exact hnd.1 (by rw [← he]; exact List.mem_map_of_mem (f := Prod.fst) hq)
      · exact ih'.1 p hp
    · rw [ih'.2 i (fun p hp => hi p (List.mem_cons_of_mem _ hp))]
      have : b.index r ≠ i := hi (r,v) (List.mem_cons_self ..)
      simp only [State.setBankReg, if_neg hr', State.withGpr]
      rw [Fin.getElem_fin, Vector.getElem_set_ne]
      · rfl
      · intro h; exact this (Fin.ext h)

/-- The registers paired with the words of the block at `start`: what `loadBlock_eq` says is read. -/
def loadedPairs (s : State) (start : Word) (regs : List Reg) : List (Reg × Word) := (List.range regs.length).map fun
    j => (regs.getD j 0#4, s.mem.load .word (start + blockBytes j))

theorem loadedPairs_fst (s start regs) : (loadedPairs s start regs).map Prod.fst = regs := by
  unfold loadedPairs
  rw [List.map_map]
  apply List.ext_getElem
  · simp
  · intro i h1 h2; simp [h2]

/-- Writing what a block gives for the registers of a list loads the block (R282). -/
theorem State.blockLoaded_setBankRegs (s u : State) (b : Bank) (list : BitVec 15) (start : Word) :
   s.BlockLoaded b list start u.gpr (u.setBankRegs b (loadedPairs s start (listRegs list))).gpr := by
  have hlt : ∀ p ∈ loadedPairs s start (listRegs list), p.1.toNat < 15 := by
    intro p hp
    have : p.1 ∈ listRegs list := by rw [← loadedPairs_fst s start (listRegs list)]; exact List.mem_map_of_mem hp
    rw [mem_listRegs (by omega)] at this
    apply Classical.byContradiction; intro hx
    rw [BitVec.getLsbD_of_ge _ _ (by omega)] at this; cases this
  have hnd : ((loadedPairs s start (listRegs list)).map Prod.fst).Nodup := by
    rw [loadedPairs_fst]; exact nodup_listRegs (by omega) list
  have key := State.getElem_setBankRegs b (loadedPairs s start (listRegs list)) hlt hnd u
  refine ⟨fun r hr hl => ?_, fun i hi => ?_⟩
  · obtain ⟨h1, h2⟩ := listRegs_listRank (by omega) list r hl
    have hm : (r, s.mem.load .word (start + blockBytes (listRank list r))) ∈ loadedPairs s start (listRegs list) := by
      unfold loadedPairs
      refine List.mem_map.mpr ⟨listRank list r, by simpa using h1, ?_⟩
      simp [h1, h2]
    exact key.1 _ hm
  · apply key.2
    intro p hp
    have : p.1 ∈ listRegs list := by rw [← loadedPairs_fst s start (listRegs list)]; exact List.mem_map_of_mem hp
    rw [mem_listRegs (by omega)] at this
    exact hi _ (hlt p hp) this

/-- Loads that succeed for the first registers of a list go on with the others (R80). -/
theorem loadBlock_split (s : State) (a : Word) (regs rest : List Reg)
    (h : s.canAccessWords .read a regs.length = true) :
    loadBlock s a (regs ++ rest) = (loadedPairs s a regs ++ (loadBlock s (a + blockBytes regs.length) rest).1,
      (loadBlock s (a + blockBytes regs.length) rest).2) := by
  induction regs generalizing a with
  | nil => simp [loadedPairs, blockBytes]
  | cons r regs ih =>
    rw [List.length_cons, State.canAccessWords_succ] at h
    have hp : loadedPairs s a (r :: regs) = (r, s.mem.load .word a) :: loadedPairs s (a + 4#32) regs := by
      have h0 : a + blockBytes 0 = a := by simp [blockBytes]
      simp only [loadedPairs, List.length_cons, List.range_succ_eq_map, List.map_cons, List.map_map, h0,
        List.getD_cons_zero]
      congr 1
      apply List.map_congr_left
      intro j _
      simp [blockBytes_succ]
    simp only [List.cons_append, loadBlock, memRead_eq s .word a _ h.1, ih (a + 4#32) h.2, hp, blockBytes_succ,
      List.length_cons]

/-! ## Stores of a block -/

theorem byteAddr_add (a : Word) (j k : Nat) : byteAddr (a + BitVec.ofNat 32 j) k = byteAddr a (j + k) := by
  simp only [byteAddr]; congr 1; rw [BitVec.add_assoc]; simp [BitVec.ofNat_add]

/-- Memory after words are stored from an address upward. -/
def storeWords (m : Memory) (a : Word) : List Word → Memory
  | [] => m
  | v :: rest => storeWords (m.store .word a v) (a + 4#32) rest

/-- The record of written bytes after words are stored from an address upward. -/
def markWords (l : AddrSet) (a : Word) : List Word → AddrSet
  | [] => l
  | _ :: rest => markWords (l.markAll (accessBytes .word a)) (a + 4#32) rest

theorem mem_blockByteAddrs (a : Word) (n x : Nat) : x ∈ blockByteAddrs a n ↔ ∃ k, k < 4 * n ∧ byteAddr a k = x := by
  simp only [blockByteAddrs, List.mem_flatMap, List.mem_range]
  have hb : ∀ j k, byteAddr (a + blockBytes j) k = byteAddr a (4 * j + k) := fun j k => byteAddr_add a (4*j) k
  constructor
  · rintro ⟨j, hj, hx⟩
    simp only [accessBytes, List.mem_cons, List.not_mem_nil, or_false, hb] at hx
    rcases hx with rfl | rfl | rfl | rfl <;> exact ⟨_, by omega, rfl⟩
  · rintro ⟨k, hk, rfl⟩
    refine ⟨k / 4, by omega, ?_⟩
    simp only [accessBytes, List.mem_cons, List.not_mem_nil, or_false, hb]
    rcases (by omega : k % 4 = 0 ∨ k % 4 = 1 ∨ k % 4 = 2 ∨ k % 4 = 3) with h | h | h | h
    · left; congr 1; omega
    · right; left; congr 1; omega
    · right; right; left; congr 1; omega
    · right; right; right; congr 1; omega

theorem byteAddr_inj (a : Word) (j k : Nat) (hj : j < 2^32) (hk : k < 2^32) (h : byteAddr a j = byteAddr a k) : j =
    k := by
  simp only [byteAddr, BitVec.toNat_add, BitVec.toNat_ofNat] at h; have := a.isLt; omega

theorem mem_accessBytes_word (a : Word) (x : Nat) : x ∈ accessBytes .word a ↔ ∃ k, k < 4 ∧ byteAddr a k = x := by
  have := mem_blockByteAddrs a 1 x
  simp [blockByteAddrs, blockBytes] at this
  simpa using this

theorem get_storeWords_of_notMem (m : Memory) (a : Word) (ws : List Word) (x : Nat) (h : x ∉ blockByteAddrs a
    ws.length) : (storeWords m a ws).get x = m.get x := by
  induction ws generalizing m a with
  | nil => rfl
  | cons v rest ih =>
    rw [mem_blockByteAddrs] at h
    simp only [storeWords]
    rw [ih, Memory.get_store_of_notMem]
    · rw [mem_accessBytes_word]; rintro ⟨k, hk, rfl⟩; exact h ⟨k, by simp; omega, rfl⟩
    · rw [mem_blockByteAddrs]; rintro ⟨k, hk, rfl⟩; exact h ⟨4 + k, by simp; omega, (byteAddr_add a 4 k).symm⟩

theorem load_storeWords (m : Memory) (a : Word) (ws : List Word) (hl : ws.length ≤ 16) (j : Nat) (hj : j <
    ws.length) (hal : wordAligned a = true) : (storeWords m a ws).load .word (a + blockBytes j) = ws[j] := by
  induction ws generalizing m a j with
  | nil => simp at hj
  | cons v rest ih =>
    simp only [List.length_cons] at hl hj
    simp only [storeWords]
    cases j with
    | zero =>
      have : a + blockBytes 0 = a := by simp [blockBytes]
      rw [this]
      rw [Memory.load_congr (m.store .word a v) _ .word]
      · exact Memory.load_store_word m a v hal
      · intro x hx
        apply get_storeWords_of_notMem
        rw [mem_accessBytes_word] at hx; obtain ⟨k, hk, rfl⟩ := hx
        rw [mem_blockByteAddrs]; rintro ⟨k', hk', he⟩
        have he : byteAddr a (4 + k') = byteAddr a k := by rw [← he]; exact (byteAddr_add a 4 k').symm
        have := byteAddr_inj _ _ _ (by omega) (by omega) he
        omega
    | succ j =>
      rw [← blockBytes_succ]
      rw [ih _ _ (by omega) _ (by omega)]
      · rfl
      · rw [wordAligned_iff] at *; simp; omega

theorem has_markWords (l : AddrSet) (a : Word) (ws : List Word) (x : Nat) : (markWords l a ws).has x = (l.has x ||
    (blockByteAddrs a ws.length).contains x) := by
  rw [Bool.eq_iff_iff, Bool.or_eq_true, List.contains_iff_mem]
  induction ws generalizing l a with
  | nil => simp [markWords, blockByteAddrs]
  | cons v rest ih =>
    simp only [markWords]
    rw [ih, AddrSet.has_markAll, mem_blockByteAddrs, mem_blockByteAddrs]
    simp only [Bool.or_eq_true, decide_eq_true_eq, mem_accessBytes_word]
    constructor
    · rintro ((⟨k, hk, rfl⟩ | h) | ⟨k, hk, rfl⟩)
      · exact .inr ⟨k, by simp; omega, rfl⟩
      · exact .inl h
      · exact .inr ⟨4 + k, by simp; omega, (byteAddr_add a 4 k).symm⟩
    · rintro (h | ⟨k, hk, rfl⟩)
      · exact .inl (.inr h)
      · by_cases h4 : k < 4
        · exact .inl (.inl ⟨k, h4, rfl⟩)
        · refine .inr ⟨k - 4, by simp at hk; omega, ?_⟩
          rw [show byteAddr (a + 4#32) (k-4) = byteAddr a (4 + (k - 4)) from byteAddr_add a 4 (k-4)]; congr 1; omega

/-- A block of stores that succeeds. -/
theorem storeBlock_eq (s : State) (a : Word) (ws : List Word) (h : s.canAccessWords .write a ws.length = true) :
   storeBlock s a ws = ({s with mem := storeWords s.mem a ws, written := markWords s.written a ws}, .ok ()) := by
  induction ws generalizing s a with
  | nil => rfl
  | cons v rest ih =>
    rw [List.length_cons, State.canAccessWords_succ] at h
    simp only [storeBlock, memWrite_eq _ _ _ _ _ h.1]
    rw [ih]
    · rfl
    · exact h.2

/-- Stores that succeed for the first words of a list go on with the others (R80). -/
theorem storeBlock_split (s : State) (a : Word) (ws rest : List Word)
    (h : s.canAccessWords .write a ws.length = true) :
    storeBlock s a (ws ++ rest) =
      storeBlock { s with mem := storeWords s.mem a ws, written := markWords s.written a ws }
        (a + blockBytes ws.length) rest := by
  induction ws generalizing s a with
  | nil => simp [storeWords, markWords, blockBytes]
  | cons v ws ih =>
    rw [List.length_cons, State.canAccessWords_succ] at h
    simp only [List.cons_append, storeBlock, memWrite_eq _ _ _ _ _ h.1]
    rw [ih (s.stored .word a v) (a + 4#32) h.2, List.length_cons, blockBytes_succ]
    rfl

/-- What a block of at most 16 words stores (R286). -/
theorem State.blockStored_of_storeWords (s t : State) (a : Word) (ws : List Word) (f : Nat → Word) (hl : ws.length ≤
    16) (hc : s.canAccessWords .write a ws.length = true) (hm : t.mem = storeWords s.mem a ws) (hw : t.written =
    markWords s.written a ws)
  (hf : ∀ j, (h : j < ws.length) → ws[j] = f j) : s.BlockStored t a ws.length f := by
  refine ⟨fun j hj => ?_, fun x hx => ?_, fun x => ?_⟩
  · rw [hm, load_storeWords _ _ _ hl _ hj, hf]
    cases ws with
    | nil => simp at hj
    | cons v rest =>
      rw [List.length_cons, State.canAccessWords_succ] at hc
      have := hc.1
      simp [State.canAccess, Size.aligned] at this; exact this.1.1
  · rw [hm]; exact get_storeWords_of_notMem _ _ _ _ hx
  · rw [hw]; exact has_markWords _ _ _ _

/-! ## The words of an LDC -/

/-- An LDC that receives its first `m` words goes on with the others (R80, R318). -/
theorem ldcWords_split (p : BitVec 4) (bits : Word) (s : State) (j : Nat) (a : Word) (m n : Nat)
    (h : s.canAccessWords .read a m = true) :
    ldcWords p bits s j a (m + n) =
      ldcWords p bits
        (s.setCp p ((List.range m).foldl (fun st i =>
          Config.cpLdcWord p bits (j + i) (s.mem.load .word (a + blockBytes i)) st) (s.cp p)))
        (j + m) (a + blockBytes m) n := by
  induction m generalizing s j a with
  | zero =>
    have hs : s.setCp p (s.cp p) = s := by
      have : s.cpState.set p.toNat (s.cp p) p.isLt = s.cpState := by unfold State.cp; simp
      simp only [State.setCp, this]; rfl
    have h0 : a + blockBytes 0 = a := by simp [blockBytes]
    simp only [Nat.zero_add, Nat.add_zero, List.range_zero, List.foldl_nil, hs, h0]
  | succ m ih =>
    rw [State.canAccessWords_succ] at h
    have hss : ∀ x y, (s.setCp p x).setCp p y = s.setCp p y := by
      intro x y; simp only [State.setCp, State.withCpState]; congr 1; simp
    have hcp : ∀ x, (s.setCp p x).cp p = x := by intro x; simp [State.setCp, State.cp, State.withCpState]
    have hm : ∀ x, (s.setCp p x).mem = s.mem := fun _ => rfl
    have h0 : a + blockBytes 0 = a := by simp [blockBytes]
    rw [show m + 1 + n = (m + n) + 1 by omega]
    simp only [ldcWords, memRead_eq _ _ _ _ h.1]
    rw [ih _ _ _ (by exact h.2), List.range_succ_eq_map, List.foldl_cons, List.foldl_map, hcp, hm, hss]
    simp only [h0, Nat.add_zero, blockBytes_succ, Nat.succ_eq_add_one, show ∀ i, j + 1 + i = j + (i + 1) by omega]

/-- The words of an LDC, all of them received (R318). -/
theorem ldcWords_eq (p : BitVec 4) (bits : Word) (s : State) (j : Nat) (a : Word) (n : Nat)
    (h : s.canAccessWords .read a n = true) :
    ldcWords p bits s j a n =
      (s.setCp p ((List.range n).foldl (fun st i =>
        Config.cpLdcWord p bits (j + i) (s.mem.load .word (a + blockBytes i)) st) (s.cp p)), .ok ()) :=
  ldcWords_split p bits s j a n 0 h

end Sys2Proof.Machine
end

