-- ==== Sys2Proof/Laws/PerInstr.lean ====
section
/-!
SUPPORT. Laws/PerInstr.lean: one statement about every instruction, and one lemma for each constructor: where the
condition stands in the instruction's word.
-/

namespace Sys2Proof.Laws.EncodeCond

open Sys2Proof

/-- R91, R115, R206, R331: the top four bits of an instruction's word are its condition; 1111 in the unconditional space,
and 1110 in the words of BKPT and NOP, which have none. -/
def Statement (i : Instr) : Prop :=
  match i.condition with
  | some c => (encode i).extractLsb' 28 4 = c.bits
  | none =>
    (encode i).extractLsb' 28 4 = 0b1111#4
      ∨ (encode i).extractLsb' 28 4 = 0b1110#4 ∧ (i = .nop ∨ ∃ imm, i = .bkpt imm)

/-! ## The formats -/

theorem dpWord_top (c : Cond) (i : Bool) (op : BitVec 4) (sf : Bool) (rn rd : Reg) (o : BitVec 12) :
    (dpWord c i op sf rn rd o).extractLsb' 28 4 = c.bits := by
  apply BitVec.eq_of_getLsbD_eq
  intro k hk
  simp only [dpWord]
  rw [BitVec.getLsbD_extractLsb']
  simp only [BitVec.getLsbD_append]
  grind

theorem mulWord_top (c : Cond) (op : BitVec 7) (sf : Bool) (hi lo rs rm : Reg) :
    (mulWord c op sf hi lo rs rm).extractLsb' 28 4 = c.bits := by
  apply BitVec.eq_of_getLsbD_eq
  intro k hk
  simp only [mulWord]
  rw [BitVec.getLsbD_extractLsb']
  simp only [BitVec.getLsbD_append]
  grind

theorem miscWord_top (c : Cond) (op : BitVec 8) (a b d low : BitVec 4) (rm : Reg) :
    (miscWord c op a b d low rm).extractLsb' 28 4 = c.bits := by
  apply BitVec.eq_of_getLsbD_eq
  intro k hk
  simp only [miscWord]
  rw [BitVec.getLsbD_extractLsb']
  simp only [BitVec.getLsbD_append]
  grind

theorem mode2Word_top (c : Cond) (i p u b w l : Bool) (rn rd : Reg) (am : BitVec 12) :
    (mode2Word c i p u b w l rn rd am).extractLsb' 28 4 = c.bits := by
  apply BitVec.eq_of_getLsbD_eq
  intro k hk
  simp only [mode2Word]
  rw [BitVec.getLsbD_extractLsb']
  simp only [BitVec.getLsbD_append]
  grind

theorem mode3Word_top (c : Cond) (p u i w : Bool) (lsh : BitVec 3) (rn rd hi lo : BitVec 4) :
    (mode3Word c p u i w lsh rn rd hi lo).extractLsb' 28 4 = c.bits := by
  apply BitVec.eq_of_getLsbD_eq
  intro k hk
  simp only [mode3Word]
  rw [BitVec.getLsbD_extractLsb']
  simp only [BitVec.getLsbD_append]
  grind

theorem blockWord_top (c : Cond) (am : BlockMode) (sf w l : Bool) (rn : Reg) (list : BitVec 16) :
    (blockWord c am sf w l rn list).extractLsb' 28 4 = c.bits := by
  apply BitVec.eq_of_getLsbD_eq
  intro k hk
  simp only [blockWord]
  rw [BitVec.getLsbD_extractLsb']
  simp only [BitVec.getLsbD_append]
  grind

theorem branchWord_top (top : BitVec 4) (b : Bool) (imm : BitVec 24) :
    (branchWord top b imm).extractLsb' 28 4 = top := by
  apply BitVec.eq_of_getLsbD_eq
  intro k hk
  simp only [branchWord]
  rw [BitVec.getLsbD_extractLsb']
  simp only [BitVec.getLsbD_append]
  grind

theorem cpMemWord_top (top : BitVec 4) (p u n w l : Bool) (rn : Reg) (crd cp : BitVec 4) (off : BitVec 8) :
    (cpMemWord top p u n w l rn crd cp off).extractLsb' 28 4 = top := by
  apply BitVec.eq_of_getLsbD_eq
  intro k hk
  simp only [cpMemWord]
  rw [BitVec.getLsbD_extractLsb']
  simp only [BitVec.getLsbD_append]
  grind

theorem cpOpWord_top (top op1 crn rd cp : BitVec 4) (op2 : BitVec 3) (b : Bool) (crm : BitVec 4) :
    (cpOpWord top op1 crn rd cp op2 b crm).extractLsb' 28 4 = top := by
  apply BitVec.eq_of_getLsbD_eq
  intro k hk
  simp only [cpOpWord]
  rw [BitVec.getLsbD_extractLsb']
  simp only [BitVec.getLsbD_append]
  grind

/-! ## Every instruction -/

theorem blxLabel (h : Bool) (imm : BitVec 24) : Statement (.blxLabel h imm) := .inl (branchWord_top ..)

theorem ldc2Off (u : Bool) (n : Bool) (w : Bool) (rn : Reg) (crd : BitVec 4) (cp : BitVec 4) (off : BitVec 8) :
    Statement (.ldc2Off u n w rn crd cp off) := .inl (cpMemWord_top ..)

theorem ldc2Post (u : Bool) (n : Bool) (rn : Reg) (crd : BitVec 4) (cp : BitVec 4) (off : BitVec 8) :
    Statement (.ldc2Post u n rn crd cp off) := .inl (cpMemWord_top ..)

theorem ldc2Unidx (n : Bool) (rn : Reg) (crd : BitVec 4) (cp : BitVec 4) (off : BitVec 8) :
    Statement (.ldc2Unidx n rn crd cp off) := .inl (cpMemWord_top ..)

theorem stc2Off (u : Bool) (n : Bool) (w : Bool) (rn : Reg) (crd : BitVec 4) (cp : BitVec 4) (off : BitVec 8) :
    Statement (.stc2Off u n w rn crd cp off) := .inl (cpMemWord_top ..)

theorem stc2Post (u : Bool) (n : Bool) (rn : Reg) (crd : BitVec 4) (cp : BitVec 4) (off : BitVec 8) :
    Statement (.stc2Post u n rn crd cp off) := .inl (cpMemWord_top ..)

theorem stc2Unidx (n : Bool) (rn : Reg) (crd : BitVec 4) (cp : BitVec 4) (off : BitVec 8) :
    Statement (.stc2Unidx n rn crd cp off) := .inl (cpMemWord_top ..)

theorem cdp2 (op1 : BitVec 4) (crn : BitVec 4) (crd : BitVec 4) (cp : BitVec 4) (op2 : BitVec 3) (crm : BitVec 4) :
    Statement (.cdp2 op1 crn crd cp op2 crm) := .inl (cpOpWord_top ..)

theorem mrc2 (op1 : BitVec 3) (crn : BitVec 4) (rd : Reg) (cp : BitVec 4) (op2 : BitVec 3) (crm : BitVec 4) :
    Statement (.mrc2 op1 crn rd cp op2 crm) := .inl (cpOpWord_top ..)

theorem mcr2 (op1 : BitVec 3) (crn : BitVec 4) (rd : Reg) (cp : BitVec 4) (op2 : BitVec 3) (crm : BitVec 4) :
    Statement (.mcr2 op1 crn rd cp op2 crm) := .inl (cpOpWord_top ..)

theorem mul (c : Cond) (sf : Bool) (rd : Reg) (rs : Reg) (rm : Reg) : Statement (.mul c sf rd rs rm) := mulWord_top ..

theorem mla (c : Cond) (sf : Bool) (rd : Reg) (rn : Reg) (rs : Reg) (rm : Reg) :
    Statement (.mla c sf rd rn rs rm) := mulWord_top ..

theorem umull (c : Cond) (sf : Bool) (rdHi : Reg) (rdLo : Reg) (rs : Reg) (rm : Reg) :
    Statement (.umull c sf rdHi rdLo rs rm) := mulWord_top ..

theorem umlal (c : Cond) (sf : Bool) (rdHi : Reg) (rdLo : Reg) (rs : Reg) (rm : Reg) :
    Statement (.umlal c sf rdHi rdLo rs rm) := mulWord_top ..

theorem smull (c : Cond) (sf : Bool) (rdHi : Reg) (rdLo : Reg) (rs : Reg) (rm : Reg) :
    Statement (.smull c sf rdHi rdLo rs rm) := mulWord_top ..

theorem smlal (c : Cond) (sf : Bool) (rdHi : Reg) (rdLo : Reg) (rs : Reg) (rm : Reg) :
    Statement (.smlal c sf rdHi rdLo rs rm) := mulWord_top ..

theorem swp (c : Cond) (rn : Reg) (rd : Reg) (rm : Reg) : Statement (.swp c rn rd rm) := miscWord_top ..

theorem swpb (c : Cond) (rn : Reg) (rd : Reg) (rm : Reg) : Statement (.swpb c rn rd rm) := miscWord_top ..

theorem ldrhImm (c : Cond) (u : Bool) (w : Bool) (rn : Reg) (rd : Reg) (imm : BitVec 8) :
    Statement (.ldrhImm c u w rn rd imm) := mode3Word_top ..

theorem ldrhImmPost (c : Cond) (u : Bool) (rn : Reg) (rd : Reg) (imm : BitVec 8) :
    Statement (.ldrhImmPost c u rn rd imm) := mode3Word_top ..

theorem ldrhReg (c : Cond) (u : Bool) (w : Bool) (rn : Reg) (rd : Reg) (rm : Reg) :
    Statement (.ldrhReg c u w rn rd rm) := mode3Word_top ..

theorem ldrhRegPost (c : Cond) (u : Bool) (rn : Reg) (rd : Reg) (rm : Reg) :
    Statement (.ldrhRegPost c u rn rd rm) := mode3Word_top ..

theorem ldrsbImm (c : Cond) (u : Bool) (w : Bool) (rn : Reg) (rd : Reg) (imm : BitVec 8) :
    Statement (.ldrsbImm c u w rn rd imm) := mode3Word_top ..

theorem ldrsbImmPost (c : Cond) (u : Bool) (rn : Reg) (rd : Reg) (imm : BitVec 8) :
    Statement (.ldrsbImmPost c u rn rd imm) := mode3Word_top ..

theorem ldrsbReg (c : Cond) (u : Bool) (w : Bool) (rn : Reg) (rd : Reg) (rm : Reg) :
    Statement (.ldrsbReg c u w rn rd rm) := mode3Word_top ..

theorem ldrsbRegPost (c : Cond) (u : Bool) (rn : Reg) (rd : Reg) (rm : Reg) :
    Statement (.ldrsbRegPost c u rn rd rm) := mode3Word_top ..

theorem ldrshImm (c : Cond) (u : Bool) (w : Bool) (rn : Reg) (rd : Reg) (imm : BitVec 8) :
    Statement (.ldrshImm c u w rn rd imm) := mode3Word_top ..

theorem ldrshImmPost (c : Cond) (u : Bool) (rn : Reg) (rd : Reg) (imm : BitVec 8) :
    Statement (.ldrshImmPost c u rn rd imm) := mode3Word_top ..

theorem ldrshReg (c : Cond) (u : Bool) (w : Bool) (rn : Reg) (rd : Reg) (rm : Reg) :
    Statement (.ldrshReg c u w rn rd rm) := mode3Word_top ..

theorem ldrshRegPost (c : Cond) (u : Bool) (rn : Reg) (rd : Reg) (rm : Reg) :
    Statement (.ldrshRegPost c u rn rd rm) := mode3Word_top ..

theorem strhImm (c : Cond) (u : Bool) (w : Bool) (rn : Reg) (rd : Reg) (imm : BitVec 8) :
    Statement (.strhImm c u w rn rd imm) := mode3Word_top ..

theorem strhImmPost (c : Cond) (u : Bool) (rn : Reg) (rd : Reg) (imm : BitVec 8) :
    Statement (.strhImmPost c u rn rd imm) := mode3Word_top ..

theorem strhReg (c : Cond) (u : Bool) (w : Bool) (rn : Reg) (rd : Reg) (rm : Reg) :
    Statement (.strhReg c u w rn rd rm) := mode3Word_top ..

theorem strhRegPost (c : Cond) (u : Bool) (rn : Reg) (rd : Reg) (rm : Reg) :
    Statement (.strhRegPost c u rn rd rm) := mode3Word_top ..

theorem mrsCpsr (c : Cond) (rd : Reg) : Statement (.mrsCpsr c rd) := miscWord_top ..

theorem mrsSpsr (c : Cond) (rd : Reg) : Statement (.mrsSpsr c rd) := miscWord_top ..

theorem msrCpsrReg (c : Cond) (fields : BitVec 4) (rm : Reg) : Statement (.msrCpsrReg c fields rm) := miscWord_top ..

theorem msrSpsrReg (c : Cond) (fields : BitVec 4) (rm : Reg) : Statement (.msrSpsrReg c fields rm) := miscWord_top ..

theorem msrCpsrImm (c : Cond) (fields : BitVec 4) (rot : BitVec 4) (imm : BitVec 8) :
    Statement (.msrCpsrImm c fields rot imm) := miscWord_top ..

theorem msrSpsrImm (c : Cond) (fields : BitVec 4) (rot : BitVec 4) (imm : BitVec 8) :
    Statement (.msrSpsrImm c fields rot imm) := miscWord_top ..

theorem bx (c : Cond) (rm : Reg) : Statement (.bx c rm) := miscWord_top ..

theorem blxReg (c : Cond) (rm : Reg) : Statement (.blxReg c rm) := miscWord_top ..

theorem clz (c : Cond) (rd : Reg) (rm : Reg) : Statement (.clz c rd rm) := miscWord_top ..

theorem bkpt (imm : BitVec 16) : Statement (.bkpt imm) := .inr ⟨miscWord_top .., .inr ⟨imm, rfl⟩⟩

theorem qadd (c : Cond) (rn : Reg) (rd : Reg) (rm : Reg) : Statement (.qadd c rn rd rm) := miscWord_top ..

theorem qsub (c : Cond) (rn : Reg) (rd : Reg) (rm : Reg) : Statement (.qsub c rn rd rm) := miscWord_top ..

theorem qdadd (c : Cond) (rn : Reg) (rd : Reg) (rm : Reg) : Statement (.qdadd c rn rd rm) := miscWord_top ..

theorem qdsub (c : Cond) (rn : Reg) (rd : Reg) (rm : Reg) : Statement (.qdsub c rn rd rm) := miscWord_top ..

theorem smlaxy (c : Cond) (x : Bool) (y : Bool) (rd : Reg) (rn : Reg) (rs : Reg) (rm : Reg) :
    Statement (.smlaxy c x y rd rn rs rm) := miscWord_top ..

theorem smlawy (c : Cond) (y : Bool) (rd : Reg) (rn : Reg) (rs : Reg) (rm : Reg) :
    Statement (.smlawy c y rd rn rs rm) := miscWord_top ..

theorem smulwy (c : Cond) (y : Bool) (rd : Reg) (rs : Reg) (rm : Reg) :
    Statement (.smulwy c y rd rs rm) := miscWord_top ..

theorem smlalxy (c : Cond) (x : Bool) (y : Bool) (rdHi : Reg) (rdLo : Reg) (rs : Reg) (rm : Reg) :
    Statement (.smlalxy c x y rdHi rdLo rs rm) := miscWord_top ..

theorem smulxy (c : Cond) (x : Bool) (y : Bool) (rd : Reg) (rs : Reg) (rm : Reg) :
    Statement (.smulxy c x y rd rs rm) := miscWord_top ..

theorem nop : Statement (.nop) := .inr ⟨by decide, .inl rfl⟩

theorem andImm (c : Cond) (sf : Bool) (rn : Reg) (rd : Reg) (rot : BitVec 4) (imm : BitVec 8) :
    Statement (.andImm c sf rn rd rot imm) := dpWord_top ..

theorem andShift (c : Cond) (sf : Bool) (rn : Reg) (rd : Reg) (amt : BitVec 5) (sh : ShiftKind) (rm : Reg) :
    Statement (.andShift c sf rn rd amt sh rm) := dpWord_top ..

theorem andReg (c : Cond) (sf : Bool) (rn : Reg) (rd : Reg) (rs : Reg) (sh : ShiftKind) (rm : Reg) :
    Statement (.andReg c sf rn rd rs sh rm) := dpWord_top ..

theorem eorImm (c : Cond) (sf : Bool) (rn : Reg) (rd : Reg) (rot : BitVec 4) (imm : BitVec 8) :
    Statement (.eorImm c sf rn rd rot imm) := dpWord_top ..

theorem eorShift (c : Cond) (sf : Bool) (rn : Reg) (rd : Reg) (amt : BitVec 5) (sh : ShiftKind) (rm : Reg) :
    Statement (.eorShift c sf rn rd amt sh rm) := dpWord_top ..

theorem eorReg (c : Cond) (sf : Bool) (rn : Reg) (rd : Reg) (rs : Reg) (sh : ShiftKind) (rm : Reg) :
    Statement (.eorReg c sf rn rd rs sh rm) := dpWord_top ..

theorem subImm (c : Cond) (sf : Bool) (rn : Reg) (rd : Reg) (rot : BitVec 4) (imm : BitVec 8) :
    Statement (.subImm c sf rn rd rot imm) := dpWord_top ..

theorem subShift (c : Cond) (sf : Bool) (rn : Reg) (rd : Reg) (amt : BitVec 5) (sh : ShiftKind) (rm : Reg) :
    Statement (.subShift c sf rn rd amt sh rm) := dpWord_top ..

theorem subReg (c : Cond) (sf : Bool) (rn : Reg) (rd : Reg) (rs : Reg) (sh : ShiftKind) (rm : Reg) :
    Statement (.subReg c sf rn rd rs sh rm) := dpWord_top ..

theorem rsbImm (c : Cond) (sf : Bool) (rn : Reg) (rd : Reg) (rot : BitVec 4) (imm : BitVec 8) :
    Statement (.rsbImm c sf rn rd rot imm) := dpWord_top ..

theorem rsbShift (c : Cond) (sf : Bool) (rn : Reg) (rd : Reg) (amt : BitVec 5) (sh : ShiftKind) (rm : Reg) :
    Statement (.rsbShift c sf rn rd amt sh rm) := dpWord_top ..

theorem rsbReg (c : Cond) (sf : Bool) (rn : Reg) (rd : Reg) (rs : Reg) (sh : ShiftKind) (rm : Reg) :
    Statement (.rsbReg c sf rn rd rs sh rm) := dpWord_top ..

theorem addImm (c : Cond) (sf : Bool) (rn : Reg) (rd : Reg) (rot : BitVec 4) (imm : BitVec 8) :
    Statement (.addImm c sf rn rd rot imm) := dpWord_top ..

theorem addShift (c : Cond) (sf : Bool) (rn : Reg) (rd : Reg) (amt : BitVec 5) (sh : ShiftKind) (rm : Reg) :
    Statement (.addShift c sf rn rd amt sh rm) := dpWord_top ..

theorem addReg (c : Cond) (sf : Bool) (rn : Reg) (rd : Reg) (rs : Reg) (sh : ShiftKind) (rm : Reg) :
    Statement (.addReg c sf rn rd rs sh rm) := dpWord_top ..

theorem adcImm (c : Cond) (sf : Bool) (rn : Reg) (rd : Reg) (rot : BitVec 4) (imm : BitVec 8) :
    Statement (.adcImm c sf rn rd rot imm) := dpWord_top ..

theorem adcShift (c : Cond) (sf : Bool) (rn : Reg) (rd : Reg) (amt : BitVec 5) (sh : ShiftKind) (rm : Reg) :
    Statement (.adcShift c sf rn rd amt sh rm) := dpWord_top ..

theorem adcReg (c : Cond) (sf : Bool) (rn : Reg) (rd : Reg) (rs : Reg) (sh : ShiftKind) (rm : Reg) :
    Statement (.adcReg c sf rn rd rs sh rm) := dpWord_top ..

theorem sbcImm (c : Cond) (sf : Bool) (rn : Reg) (rd : Reg) (rot : BitVec 4) (imm : BitVec 8) :
    Statement (.sbcImm c sf rn rd rot imm) := dpWord_top ..

theorem sbcShift (c : Cond) (sf : Bool) (rn : Reg) (rd : Reg) (amt : BitVec 5) (sh : ShiftKind) (rm : Reg) :
    Statement (.sbcShift c sf rn rd amt sh rm) := dpWord_top ..

theorem sbcReg (c : Cond) (sf : Bool) (rn : Reg) (rd : Reg) (rs : Reg) (sh : ShiftKind) (rm : Reg) :
    Statement (.sbcReg c sf rn rd rs sh rm) := dpWord_top ..

theorem rscImm (c : Cond) (sf : Bool) (rn : Reg) (rd : Reg) (rot : BitVec 4) (imm : BitVec 8) :
    Statement (.rscImm c sf rn rd rot imm) := dpWord_top ..

theorem rscShift (c : Cond) (sf : Bool) (rn : Reg) (rd : Reg) (amt : BitVec 5) (sh : ShiftKind) (rm : Reg) :
    Statement (.rscShift c sf rn rd amt sh rm) := dpWord_top ..

theorem rscReg (c : Cond) (sf : Bool) (rn : Reg) (rd : Reg) (rs : Reg) (sh : ShiftKind) (rm : Reg) :
    Statement (.rscReg c sf rn rd rs sh rm) := dpWord_top ..

theorem tstImm (c : Cond) (rn : Reg) (rot : BitVec 4) (imm : BitVec 8) :
    Statement (.tstImm c rn rot imm) := dpWord_top ..

theorem tstShift (c : Cond) (rn : Reg) (amt : BitVec 5) (sh : ShiftKind) (rm : Reg) :
    Statement (.tstShift c rn amt sh rm) := dpWord_top ..

theorem tstReg (c : Cond) (rn : Reg) (rs : Reg) (sh : ShiftKind) (rm : Reg) :
    Statement (.tstReg c rn rs sh rm) := dpWord_top ..

theorem teqImm (c : Cond) (rn : Reg) (rot : BitVec 4) (imm : BitVec 8) :
    Statement (.teqImm c rn rot imm) := dpWord_top ..

theorem teqShift (c : Cond) (rn : Reg) (amt : BitVec 5) (sh : ShiftKind) (rm : Reg) :
    Statement (.teqShift c rn amt sh rm) := dpWord_top ..

theorem teqReg (c : Cond) (rn : Reg) (rs : Reg) (sh : ShiftKind) (rm : Reg) :
    Statement (.teqReg c rn rs sh rm) := dpWord_top ..

theorem cmpImm (c : Cond) (rn : Reg) (rot : BitVec 4) (imm : BitVec 8) :
    Statement (.cmpImm c rn rot imm) := dpWord_top ..

theorem cmpShift (c : Cond) (rn : Reg) (amt : BitVec 5) (sh : ShiftKind) (rm : Reg) :
    Statement (.cmpShift c rn amt sh rm) := dpWord_top ..

theorem cmpReg (c : Cond) (rn : Reg) (rs : Reg) (sh : ShiftKind) (rm : Reg) :
    Statement (.cmpReg c rn rs sh rm) := dpWord_top ..

theorem cmnImm (c : Cond) (rn : Reg) (rot : BitVec 4) (imm : BitVec 8) :
    Statement (.cmnImm c rn rot imm) := dpWord_top ..

theorem cmnShift (c : Cond) (rn : Reg) (amt : BitVec 5) (sh : ShiftKind) (rm : Reg) :
    Statement (.cmnShift c rn amt sh rm) := dpWord_top ..

theorem cmnReg (c : Cond) (rn : Reg) (rs : Reg) (sh : ShiftKind) (rm : Reg) :
    Statement (.cmnReg c rn rs sh rm) := dpWord_top ..

theorem orrImm (c : Cond) (sf : Bool) (rn : Reg) (rd : Reg) (rot : BitVec 4) (imm : BitVec 8) :
    Statement (.orrImm c sf rn rd rot imm) := dpWord_top ..

theorem orrShift (c : Cond) (sf : Bool) (rn : Reg) (rd : Reg) (amt : BitVec 5) (sh : ShiftKind) (rm : Reg) :
    Statement (.orrShift c sf rn rd amt sh rm) := dpWord_top ..

theorem orrReg (c : Cond) (sf : Bool) (rn : Reg) (rd : Reg) (rs : Reg) (sh : ShiftKind) (rm : Reg) :
    Statement (.orrReg c sf rn rd rs sh rm) := dpWord_top ..

theorem movImm (c : Cond) (sf : Bool) (rd : Reg) (rot : BitVec 4) (imm : BitVec 8) :
    Statement (.movImm c sf rd rot imm) := dpWord_top ..

theorem movShift (c : Cond) (sf : Bool) (rd : Reg) (amt : BitVec 5) (sh : ShiftKind) (rm : Reg) :
    Statement (.movShift c sf rd amt sh rm) := dpWord_top ..

theorem movReg (c : Cond) (sf : Bool) (rd : Reg) (rs : Reg) (sh : ShiftKind) (rm : Reg) :
    Statement (.movReg c sf rd rs sh rm) := dpWord_top ..

theorem bicImm (c : Cond) (sf : Bool) (rn : Reg) (rd : Reg) (rot : BitVec 4) (imm : BitVec 8) :
    Statement (.bicImm c sf rn rd rot imm) := dpWord_top ..

theorem bicShift (c : Cond) (sf : Bool) (rn : Reg) (rd : Reg) (amt : BitVec 5) (sh : ShiftKind) (rm : Reg) :
    Statement (.bicShift c sf rn rd amt sh rm) := dpWord_top ..

theorem bicReg (c : Cond) (sf : Bool) (rn : Reg) (rd : Reg) (rs : Reg) (sh : ShiftKind) (rm : Reg) :
    Statement (.bicReg c sf rn rd rs sh rm) := dpWord_top ..

theorem mvnImm (c : Cond) (sf : Bool) (rd : Reg) (rot : BitVec 4) (imm : BitVec 8) :
    Statement (.mvnImm c sf rd rot imm) := dpWord_top ..

theorem mvnShift (c : Cond) (sf : Bool) (rd : Reg) (amt : BitVec 5) (sh : ShiftKind) (rm : Reg) :
    Statement (.mvnShift c sf rd amt sh rm) := dpWord_top ..

theorem mvnReg (c : Cond) (sf : Bool) (rd : Reg) (rs : Reg) (sh : ShiftKind) (rm : Reg) :
    Statement (.mvnReg c sf rd rs sh rm) := dpWord_top ..

theorem ldrtImm (c : Cond) (u : Bool) (rn : Reg) (rd : Reg) (imm : BitVec 12) :
    Statement (.ldrtImm c u rn rd imm) := mode2Word_top ..

theorem ldrtReg (c : Cond) (u : Bool) (rn : Reg) (rd : Reg) (amt : BitVec 5) (sh : ShiftKind) (rm : Reg) :
    Statement (.ldrtReg c u rn rd amt sh rm) := mode2Word_top ..

theorem ldrbtImm (c : Cond) (u : Bool) (rn : Reg) (rd : Reg) (imm : BitVec 12) :
    Statement (.ldrbtImm c u rn rd imm) := mode2Word_top ..

theorem ldrbtReg (c : Cond) (u : Bool) (rn : Reg) (rd : Reg) (amt : BitVec 5) (sh : ShiftKind) (rm : Reg) :
    Statement (.ldrbtReg c u rn rd amt sh rm) := mode2Word_top ..

theorem strtImm (c : Cond) (u : Bool) (rn : Reg) (rd : Reg) (imm : BitVec 12) :
    Statement (.strtImm c u rn rd imm) := mode2Word_top ..

theorem strtReg (c : Cond) (u : Bool) (rn : Reg) (rd : Reg) (amt : BitVec 5) (sh : ShiftKind) (rm : Reg) :
    Statement (.strtReg c u rn rd amt sh rm) := mode2Word_top ..

theorem strbtImm (c : Cond) (u : Bool) (rn : Reg) (rd : Reg) (imm : BitVec 12) :
    Statement (.strbtImm c u rn rd imm) := mode2Word_top ..

theorem strbtReg (c : Cond) (u : Bool) (rn : Reg) (rd : Reg) (amt : BitVec 5) (sh : ShiftKind) (rm : Reg) :
    Statement (.strbtReg c u rn rd amt sh rm) := mode2Word_top ..

theorem ldrPcImm (c : Cond) (ix : IndexMode) (u : Bool) (rn : Reg) (imm : BitVec 12) :
    Statement (.ldrPcImm c ix u rn imm) := mode2Word_top ..

theorem ldrPcReg (c : Cond) (ix : IndexMode) (u : Bool) (rn : Reg) (amt : BitVec 5) (sh : ShiftKind) (rm : Reg) :
    Statement (.ldrPcReg c ix u rn amt sh rm) := mode2Word_top ..

theorem ldrImm (c : Cond) (ix : IndexMode) (u : Bool) (rn : Reg) (rd : Reg) (imm : BitVec 12) :
    Statement (.ldrImm c ix u rn rd imm) := mode2Word_top ..

theorem ldrReg (c : Cond) (ix : IndexMode) (u : Bool) (rn : Reg) (rd : Reg) (amt : BitVec 5) (sh : ShiftKind) (rm : Reg) :
    Statement (.ldrReg c ix u rn rd amt sh rm) := mode2Word_top ..

theorem ldrbImm (c : Cond) (ix : IndexMode) (u : Bool) (rn : Reg) (rd : Reg) (imm : BitVec 12) :
    Statement (.ldrbImm c ix u rn rd imm) := mode2Word_top ..

theorem ldrbReg (c : Cond) (ix : IndexMode) (u : Bool) (rn : Reg) (rd : Reg) (amt : BitVec 5) (sh : ShiftKind) (rm : Reg) :
    Statement (.ldrbReg c ix u rn rd amt sh rm) := mode2Word_top ..

theorem strImm (c : Cond) (ix : IndexMode) (u : Bool) (rn : Reg) (rd : Reg) (imm : BitVec 12) :
    Statement (.strImm c ix u rn rd imm) := mode2Word_top ..

theorem strReg (c : Cond) (ix : IndexMode) (u : Bool) (rn : Reg) (rd : Reg) (amt : BitVec 5) (sh : ShiftKind) (rm : Reg) :
    Statement (.strReg c ix u rn rd amt sh rm) := mode2Word_top ..

theorem strbImm (c : Cond) (ix : IndexMode) (u : Bool) (rn : Reg) (rd : Reg) (imm : BitVec 12) :
    Statement (.strbImm c ix u rn rd imm) := mode2Word_top ..

theorem strbReg (c : Cond) (ix : IndexMode) (u : Bool) (rn : Reg) (rd : Reg) (amt : BitVec 5) (sh : ShiftKind) (rm : Reg) :
    Statement (.strbReg c ix u rn rd amt sh rm) := mode2Word_top ..

theorem ldm (c : Cond) (am : BlockMode) (w : Bool) (rn : Reg) (list : BitVec 15) :
    Statement (.ldm c am w rn list) := blockWord_top ..

theorem ldmPc (c : Cond) (am : BlockMode) (w : Bool) (rn : Reg) (list : BitVec 15) :
    Statement (.ldmPc c am w rn list) := blockWord_top ..

theorem ldmPcRet (c : Cond) (am : BlockMode) (w : Bool) (rn : Reg) (list : BitVec 15) :
    Statement (.ldmPcRet c am w rn list) := blockWord_top ..

theorem ldmUser (c : Cond) (am : BlockMode) (rn : Reg) (list : BitVec 15) :
    Statement (.ldmUser c am rn list) := blockWord_top ..

theorem stm (c : Cond) (am : BlockMode) (w : Bool) (rn : Reg) (list : BitVec 16) :
    Statement (.stm c am w rn list) := blockWord_top ..

theorem stmUser (c : Cond) (am : BlockMode) (rn : Reg) (list : BitVec 16) :
    Statement (.stmUser c am rn list) := blockWord_top ..

theorem b (c : Cond) (imm : BitVec 24) : Statement (.b c imm) := branchWord_top ..

theorem bl (c : Cond) (imm : BitVec 24) : Statement (.bl c imm) := branchWord_top ..

theorem ldcOff (c : Cond) (u : Bool) (n : Bool) (w : Bool) (rn : Reg) (crd : BitVec 4) (cp : BitVec 4) (off : BitVec 8) :
    Statement (.ldcOff c u n w rn crd cp off) := cpMemWord_top ..

theorem ldcPost (c : Cond) (u : Bool) (n : Bool) (rn : Reg) (crd : BitVec 4) (cp : BitVec 4) (off : BitVec 8) :
    Statement (.ldcPost c u n rn crd cp off) := cpMemWord_top ..

theorem ldcUnidx (c : Cond) (n : Bool) (rn : Reg) (crd : BitVec 4) (cp : BitVec 4) (off : BitVec 8) :
    Statement (.ldcUnidx c n rn crd cp off) := cpMemWord_top ..

theorem stcOff (c : Cond) (u : Bool) (n : Bool) (w : Bool) (rn : Reg) (crd : BitVec 4) (cp : BitVec 4) (off : BitVec 8) :
    Statement (.stcOff c u n w rn crd cp off) := cpMemWord_top ..

theorem stcPost (c : Cond) (u : Bool) (n : Bool) (rn : Reg) (crd : BitVec 4) (cp : BitVec 4) (off : BitVec 8) :
    Statement (.stcPost c u n rn crd cp off) := cpMemWord_top ..

theorem stcUnidx (c : Cond) (n : Bool) (rn : Reg) (crd : BitVec 4) (cp : BitVec 4) (off : BitVec 8) :
    Statement (.stcUnidx c n rn crd cp off) := cpMemWord_top ..

theorem cdp (c : Cond) (op1 : BitVec 4) (crn : BitVec 4) (crd : BitVec 4) (cp : BitVec 4) (op2 : BitVec 3) (crm : BitVec 4) :
    Statement (.cdp c op1 crn crd cp op2 crm) := cpOpWord_top ..

theorem mrc (c : Cond) (op1 : BitVec 3) (crn : BitVec 4) (rd : Reg) (cp : BitVec 4) (op2 : BitVec 3) (crm : BitVec 4) :
    Statement (.mrc c op1 crn rd cp op2 crm) := cpOpWord_top ..

theorem mcr (c : Cond) (op1 : BitVec 3) (crn : BitVec 4) (rd : Reg) (cp : BitVec 4) (op2 : BitVec 3) (crm : BitVec 4) :
    Statement (.mcr c op1 crn rd cp op2 crm) := cpOpWord_top ..

theorem swi (c : Cond) (imm : BitVec 24) : Statement (.swi c imm) := by
  show (encode (.swi c imm)).extractLsb' 28 4 = c.bits
  apply BitVec.eq_of_getLsbD_eq
  intro k hk
  simp only [encode]
  rw [BitVec.getLsbD_extractLsb']
  simp only [BitVec.getLsbD_append]
  grind

theorem undefReg (c : Cond) (hi : BitVec 20) (lo : BitVec 4) : Statement (.undefReg c hi lo) := by
  show (encode (.undefReg c hi lo)).extractLsb' 28 4 = c.bits
  apply BitVec.eq_of_getLsbD_eq
  intro k hk
  simp only [encode]
  rw [BitVec.getLsbD_extractLsb']
  simp only [BitVec.getLsbD_append]
  grind

theorem undefImm (c : Cond) (b22 : Bool) (lo : BitVec 20) : Statement (.undefImm c b22 lo) := by
  show (encode (.undefImm c b22 lo)).extractLsb' 28 4 = c.bits
  apply BitVec.eq_of_getLsbD_eq
  intro k hk
  simp only [encode]
  rw [BitVec.getLsbD_extractLsb']
  simp only [BitVec.getLsbD_append]
  grind

end Sys2Proof.Laws.EncodeCond
end

