-- ==== Sys2Proof/Laws/Values.lean ====
section
/-!
SUPPORT. Laws/Values.lean: what the value computations give in exact terms, and what MSR and the exception entry can do.
-/

namespace Sys2Proof.Machine

/-! ## Sums and shifts -/

/-- `addWithCarry` in exact integers (R161). -/
theorem addWithCarry_exact (a b : Word) (c : Bool) :
    addWithCarry a b c =
      ⟨BitVec.ofInt 32 (a.toInt + b.toInt + c.toNat), decide (2 ^ 32 ≤ (a.toNat : Int) + b.toNat + c.toNat),
        decide (a.toInt + b.toInt + c.toNat < -(2 ^ 31) ∨ 2 ^ 31 - 1 < a.toInt + b.toInt + c.toNat)⟩ := by
  simp only [addWithCarry]
  have h1 : BitVec.ofNat 32 (a.toNat + b.toNat + c.toNat) = BitVec.ofInt 32 (a.toInt + b.toInt + c.toNat) := by
    apply BitVec.eq_of_toNat_eq
    simp only [BitVec.toNat_ofNat, BitVec.toNat_ofInt, BitVec.toInt_eq_toNat_cond]
    have := a.isLt
    have := b.isLt
    cases c <;> (simp; split <;> split <;> omega)
  rw [h1]
  congr 1
  · simp only [decide_eq_decide]; omega
  · simp only [decide_eq_decide]
    have := a.toInt_lt
    have := b.toInt_lt
    have := a.le_toInt
    have := b.le_toInt
    rw [BitVec.toInt_ofInt]
    generalize a.toInt = x at *
    generalize b.toInt = y at *
    cases c <;> simp [Int.bmod] <;> split <;> omega

/-- A rotation to the right, bit by bit. -/
theorem getLsbD_rotateRight_mod (x : Word) (n i : Nat) (hi : i < 32) :
    (x.rotateRight n).getLsbD i = x.getLsbD ((i + n) % 32) := by
  rw [BitVec.getLsbD_rotateRight]
  by_cases h : i < 32 - n % 32
  · simp only [h, decide_true, cond_true]; congr 1; omega
  · simp only [h, decide_false, cond_false, hi, decide_true, Bool.true_and]; congr 1; omega

/-- A shift to the right is the floor of the unsigned quotient. -/
theorem toNat_ushiftRight_eq_div (x : Word) (n : Nat) : (x >>> n).toNat = x.toNat / 2 ^ n := by
  rw [BitVec.toNat_ushiftRight, Nat.shiftRight_eq_div_pow]

/-- An arithmetic shift by 32 or more is one by 32. -/
theorem sshiftRight_eq_of_le (x : Word) (n : Nat) (h : 32 ≤ n) : x.sshiftRight n = x.sshiftRight 32 := by
  apply BitVec.eq_of_getLsbD_eq
  intro i hi
  rw [BitVec.getLsbD_sshiftRight, BitVec.getLsbD_sshiftRight]
  by_cases hh : n + i < 32
  · omega
  · have : ¬ 32 + i < 32 := by omega
    simp [hh, this]

/-! ## MSR -/

/-- A merged PSR, bit by bit (R146). -/
theorem getLsbD_mergePsr (p o m : Word) (k : Nat) (hk : k < 32) :
    (mergePsr p o m).getLsbD k = if m.getLsbD k then o.getLsbD k else p.getLsbD k := by
  simp only [mergePsr, BitVec.getLsbD_or, BitVec.getLsbD_and, BitVec.getLsbD_not, hk]
  cases m.getLsbD k <;> simp

/-- An MSR to the CPSR that answers a next state (R146). -/
theorem msrCpsr_next {fields : BitVec 4} {operand : Word} {s t : State} (h : msrCpsr fields operand s = .next t) :
    fields ≠ 0#4 ∧ operand &&& Psr.byteMask fields &&& Psr.unallocMask = 0#32
      ∧ (s.privileged && operand &&& Psr.byteMask fields &&& Psr.stateMask != 0#32) = false
      ∧ Psr.legalMode (Psr.mode (mergePsr s.cpsr operand (msrMask s fields))) = true ∧ s.hasNext = true
      ∧ t = (s.withCpsr (mergePsr s.cpsr operand (msrMask s fields))).withPc (s.pc + 4#32) := by
  unfold msrCpsr at h
  split at h; · cases h
  next h1 =>
  split at h; · cases h
  next h2 =>
  split at h; · cases h
  next h3 =>
  split at h; · cases h
  next h4 =>
  obtain ⟨h5, rfl⟩ := advance_next h
  exact ⟨h1, Classical.not_not.mp h2, by simpa using h3, by simpa using h4, h5, rfl⟩

/-- An MSR to the SPSR that answers a next state (R146). -/
theorem msrSpsr_next {fields : BitVec 4} {operand : Word} {s t : State} (h : msrSpsr fields operand s = .next t) :
    fields ≠ 0#4 ∧ operand &&& Psr.byteMask fields &&& Psr.unallocMask = 0#32 ∧ s.hasNext = true
      ∧ ∃ saved, s.savedPsr = some saved
        ∧ t = (s.withSpsr (s.spsr.set s.bank (mergePsr saved operand
            (Psr.byteMask fields &&& (Psr.userMask ||| Psr.privMask ||| Psr.stateMask))))).withPc (s.pc + 4#32) := by
  unfold msrSpsr at h
  split at h; · cases h
  next h1 =>
  split at h; · cases h
  next h2 =>
  split at h
  · cases h
  · next saved hs =>
    obtain ⟨h3, rfl⟩ := advance_next h
    exact ⟨h1, Classical.not_not.mp h2, h3, saved, hs, rfl⟩

/-! ## Exception entry -/

/-- The exception entry as one record (R350): nothing else changes. -/
theorem takeException_eq (e : Exc) (s : State) :
    takeException e s =
      { s with
        gpr := s.gpr.set (e.bank.index 14#4) (s.pc + e.linkOffset)
        spsr := s.spsr.set e.bank s.cpsr
        cpsr := Psr.entered s.cpsr (e == .fiq || Psr.f s.cpsr) e.mode
        pc := Config.vectorBase + e.vector
        userXfer := false } := by
  simp [takeException, State.setBankReg, State.withGpr, State.withSpsr, State.withCpsr, State.withPc,
    State.withUserXfer]

end Sys2Proof.Machine
end

