-- ==== Sys2Proof/Tests/Slice0.lean ====
section
/-!
SUPPORT. Slice0.lean: tests of the model. Expected results come from the spec: its worked vectors
    (spec/95_test_vectors.md,
named V<n>), its encodings, or a hand calculation from a rule, which the comment then names. The last part shows for
    each
obligation that has hypotheses a state and operands that meet all of them.
-/

namespace Sys2Proof.Tests

open Sys2Proof Sys2Proof.Machine

/-! ## Well-formedness: an ill-formed term for each check -/

theorem test_wf_refuses_nop_mov : (Instr.movShift .al false 0#4 0#5 .lsl 0#4).wf = false := by decide
theorem test_wf_refuses_ldr_pc : (Instr.ldrImm .al .offset true 1#4 15#4 0#12).wf = false := by decide
theorem test_wf_refuses_ldr_reg_pc : (Instr.ldrReg .al .offset true 1#4 15#4 0#5 .lsl 2#4).wf = false := by decide
theorem test_wf_refuses_empty_ldm : (Instr.ldm .al .ia true 0#4 0#15).wf = false := by decide
theorem test_wf_refuses_empty_ldm_user : (Instr.ldmUser .al .ia 0#4 0#15).wf = false := by decide
theorem test_wf_refuses_empty_stm : (Instr.stm .al .ia true 0#4 0#16).wf = false := by decide
theorem test_wf_refuses_empty_stm_user : (Instr.stmUser .al .ia 0#4 0#16).wf = false := by decide

/-! ## Decoding: one word for every constructor, written from the encoding tables, and encoded back -/

/-- A word decodes to an instruction and is its encoding. -/
def reads (w : Nat) (i : Instr) : Bool := decodeTableWord 32 w == some i && encode i == BitVec.ofNat 32 w

theorem test_decode_blxLabel : reads 0xFB00003E (.blxLabel true 0x00003e#24) = true := by decide
theorem test_decode_ldc2Off : reads 0xFDDF256D (.ldc2Off true true false 0xf#4 0x2#4 0x5#4 0x6d#8) = true := by decide
theorem test_decode_ldc2Post : reads 0xFCB1494C (.ldc2Post true false 0x1#4 0x4#4 0x9#4 0x4c#8) = true := by decide
theorem test_decode_ldc2Unidx : reads 0xFCDD3E27 (.ldc2Unidx true 0xd#4 0x3#4 0xe#4 0x27#8) = true := by decide
theorem test_decode_stc2Off : reads 0xFD4B5FAB (.stc2Off false true false 0xb#4 0x5#4 0xf#4 0xab#8) = true := by decide
theorem test_decode_stc2Post : reads 0xFCA9108D (.stc2Post true false 0x9#4 0x1#4 0x0#4 0x8d#8) = true := by decide
theorem test_decode_stc2Unidx : reads 0xFCCDE805 (.stc2Unidx true 0xd#4 0xe#4 0x8#4 0x05#8) = true := by decide
theorem test_decode_cdp2 : reads 0xFE34D7C1 (.cdp2 0x3#4 0x4#4 0xd#4 0x7#4 0x6#3 0x1#4) = true := by decide
theorem test_decode_mrc2 : reads 0xFEBB4876 (.mrc2 0x5#3 0xb#4 0x4#4 0x8#4 0x3#3 0x6#4) = true := by decide
theorem test_decode_mcr2 : reads 0xFE01E2BD (.mcr2 0x0#3 0x1#4 0xe#4 0x2#4 0x5#3 0xd#4) = true := by decide
theorem test_decode_mul : reads 0xE0000291 (.mul .al false 0x0#4 0x2#4 0x1#4) = true := by decide
theorem test_decode_mla : reads 0xE0203291 (.mla .al false 0x0#4 0x3#4 0x2#4 0x1#4) = true := by decide
theorem test_decode_umull : reads 0xE0830291 (.umull .al false 0x3#4 0x0#4 0x2#4 0x1#4) = true := by decide
theorem test_decode_umlal : reads 0xE0A30291 (.umlal .al false 0x3#4 0x0#4 0x2#4 0x1#4) = true := by decide
theorem test_decode_smull : reads 0xE0C30291 (.smull .al false 0x3#4 0x0#4 0x2#4 0x1#4) = true := by decide
theorem test_decode_smlal : reads 0xE0E30291 (.smlal .al false 0x3#4 0x0#4 0x2#4 0x1#4) = true := by decide
theorem test_decode_swp : reads 0xE1020091 (.swp .al 0x2#4 0x0#4 0x1#4) = true := by decide
theorem test_decode_swpb : reads 0xE1420091 (.swpb .al 0x2#4 0x0#4 0x1#4) = true := by decide
theorem test_decode_ldrhImm : reads 0xE1D100B2 (.ldrhImm .al true false 0x1#4 0x0#4 0x02#8) = true := by decide
theorem test_decode_ldrhImmPost : reads 0xE0D445B0 (.ldrhImmPost .al true 0x4#4 0x4#4 0x50#8) = true := by decide
theorem test_decode_ldrhReg : reads 0xE11ED0B2 (.ldrhReg .al false false 0xe#4 0xd#4 0x2#4) = true := by decide
theorem test_decode_ldrhRegPost : reads 0xE09D60B9 (.ldrhRegPost .al true 0xd#4 0x6#4 0x9#4) = true := by decide
theorem test_decode_ldrsbImm : reads 0xE1D100DA (.ldrsbImm .al true false 0x1#4 0x0#4 0x0a#8) = true := by decide
theorem test_decode_ldrsbImmPost : reads 0xE055E6D8 (.ldrsbImmPost .al false 0x5#4 0xe#4 0x68#8) = true := by decide
theorem test_decode_ldrsbReg : reads 0xE19C60D9 (.ldrsbReg .al true false 0xc#4 0x6#4 0x9#4) = true := by decide
theorem test_decode_ldrsbRegPost : reads 0xE01C70D2 (.ldrsbRegPost .al false 0xc#4 0x7#4 0x2#4) = true := by decide
theorem test_decode_ldrshImm : reads 0xE1D100F8 (.ldrshImm .al true false 0x1#4 0x0#4 0x08#8) = true := by decide
theorem test_decode_ldrshImmPost : reads 0xE05100F2 (.ldrshImmPost .al false 0x1#4 0x0#4 0x02#8) = true := by decide
theorem test_decode_ldrshReg : reads 0xE19B90F6 (.ldrshReg .al true false 0xb#4 0x9#4 0x6#4) = true := by decide
theorem test_decode_ldrshRegPost : reads 0xE01FF0F9 (.ldrshRegPost .al false 0xf#4 0xf#4 0x9#4) = true := by decide
theorem test_decode_strhImm : reads 0xE1C100B2 (.strhImm .al true false 0x1#4 0x0#4 0x02#8) = true := by decide
theorem test_decode_strhImmPost : reads 0xE04C67BD (.strhImmPost .al false 0xc#4 0x6#4 0x7d#8) = true := by decide
theorem test_decode_strhReg : reads 0xE10080B3 (.strhReg .al false false 0x0#4 0x8#4 0x3#4) = true := by decide
theorem test_decode_strhRegPost : reads 0xE08100BF (.strhRegPost .al true 0x1#4 0x0#4 0xf#4) = true := by decide
theorem test_decode_mrsCpsr : reads 0xE10F0000 (.mrsCpsr .al 0x0#4) = true := by decide
theorem test_decode_mrsSpsr : reads 0xE14F0000 (.mrsSpsr .al 0x0#4) = true := by decide
theorem test_decode_msrCpsrReg : reads 0xE128F001 (.msrCpsrReg .al 0x8#4 0x1#4) = true := by decide
theorem test_decode_msrSpsrReg : reads 0xE169F001 (.msrSpsrReg .al 0x9#4 0x1#4) = true := by decide
theorem test_decode_msrCpsrImm : reads 0xE328F20F (.msrCpsrImm .al 0x8#4 0x2#4 0x0f#8) = true := by decide
theorem test_decode_msrSpsrImm : reads 0xE368F20F (.msrSpsrImm .al 0x8#4 0x2#4 0x0f#8) = true := by decide
theorem test_decode_bx : reads 0xE12FFF11 (.bx .al 0x1#4) = true := by decide
theorem test_decode_blxReg : reads 0xE12FFF31 (.blxReg .al 0x1#4) = true := by decide
theorem test_decode_clz : reads 0xE16F0F11 (.clz .al 0x0#4 0x1#4) = true := by decide
theorem test_decode_bkpt : reads 0xE1200070 (.bkpt 0x0000#16) = true := by decide
theorem test_decode_qadd : reads 0xE1020051 (.qadd .al 0x2#4 0x0#4 0x1#4) = true := by decide
theorem test_decode_qsub : reads 0xE1220051 (.qsub .al 0x2#4 0x0#4 0x1#4) = true := by decide
theorem test_decode_qdadd : reads 0xE1420051 (.qdadd .al 0x2#4 0x0#4 0x1#4) = true := by decide
theorem test_decode_qdsub : reads 0xE1620051 (.qdsub .al 0x2#4 0x0#4 0x1#4) = true := by decide
theorem test_decode_smlaxy : reads 0xE1003281 (.smlaxy .al false false 0x0#4 0x3#4 0x2#4 0x1#4) = true := by decide
theorem test_decode_smlawy : reads 0xE1203281 (.smlawy .al false 0x0#4 0x3#4 0x2#4 0x1#4) = true := by decide
theorem test_decode_smulwy : reads 0xE12002A1 (.smulwy .al false 0x0#4 0x2#4 0x1#4) = true := by decide
theorem test_decode_smlalxy : reads 0xE1430281 (.smlalxy .al false false 0x3#4 0x0#4 0x2#4 0x1#4) = true := by decide
theorem test_decode_smulxy : reads 0xE1600281 (.smulxy .al false false 0x0#4 0x2#4 0x1#4) = true := by decide
theorem test_decode_nop : reads 0xE1A00000 (.nop) = true := by decide
theorem test_decode_andImm : reads 0xE20100FF (.andImm .al false 0x1#4 0x0#4 0x0#4 0xff#8) = true := by decide
theorem test_decode_andShift : reads 0xE0110002 (.andShift .al true 0x1#4 0x0#4 0x00#5 .lsl 0x2#4) = true := by decide
theorem test_decode_andReg : reads 0xE0091435 (.andReg .al false 0x9#4 0x1#4 0x4#4 .lsr 0x5#4) = true := by decide
theorem test_decode_eorImm : reads 0xE2387993 (.eorImm .al true 0x8#4 0x7#4 0x9#4 0x93#8) = true := by decide
theorem test_decode_eorShift : reads 0xE0310002 (.eorShift .al true 0x1#4 0x0#4 0x00#5 .lsl 0x2#4) = true := by decide
theorem test_decode_eorReg : reads 0xE033ED56 (.eorReg .al true 0x3#4 0xe#4 0xd#4 .asr 0x6#4) = true := by decide
theorem test_decode_subImm : reads 0xE24BB481 (.subImm .al false 0xb#4 0xb#4 0x4#4 0x81#8) = true := by decide
theorem test_decode_subShift : reads 0xE0510002 (.subShift .al true 0x1#4 0x0#4 0x00#5 .lsl 0x2#4) = true := by decide
theorem test_decode_subReg : reads 0xE04CAF1C (.subReg .al false 0xc#4 0xa#4 0xf#4 .lsl 0xc#4) = true := by decide
theorem test_decode_rsbImm : reads 0xE2710000 (.rsbImm .al true 0x1#4 0x0#4 0x0#4 0x00#8) = true := by decide
theorem test_decode_rsbShift : reads 0xE0762F25 (.rsbShift .al true 0x6#4 0x2#4 0x1e#5 .lsr 0x5#4) = true := by decide
theorem test_decode_rsbReg : reads 0xE067D15F (.rsbReg .al false 0x7#4 0xd#4 0x1#4 .asr 0xf#4) = true := by decide
theorem test_decode_addImm : reads 0xE28F0008 (.addImm .al false 0xf#4 0x0#4 0x0#4 0x08#8) = true := by decide
theorem test_decode_addShift : reads 0x00810002 (.addShift .eq false 0x1#4 0x0#4 0x00#5 .lsl 0x2#4) = true := by decide
theorem test_decode_addReg : reads 0xE084DD3F (.addReg .al false 0x4#4 0xd#4 0xd#4 .lsr 0xf#4) = true := by decide
theorem test_decode_adcImm : reads 0xE2AFF9C0 (.adcImm .al false 0xf#4 0xf#4 0x9#4 0xc0#8) = true := by decide
theorem test_decode_adcShift : reads 0xE0B10002 (.adcShift .al true 0x1#4 0x0#4 0x00#5 .lsl 0x2#4) = true := by decide
theorem test_decode_adcReg : reads 0xE0A52F37 (.adcReg .al false 0x5#4 0x2#4 0xf#4 .lsr 0x7#4) = true := by decide
theorem test_decode_sbcImm : reads 0xE2CB7F62 (.sbcImm .al false 0xb#4 0x7#4 0xf#4 0x62#8) = true := by decide
theorem test_decode_sbcShift : reads 0xE0D10002 (.sbcShift .al true 0x1#4 0x0#4 0x00#5 .lsl 0x2#4) = true := by decide
theorem test_decode_sbcReg : reads 0xE0D8AB77 (.sbcReg .al true 0x8#4 0xa#4 0xb#4 .ror 0x7#4) = true := by decide
theorem test_decode_rscImm : reads 0xE2EE86CB (.rscImm .al false 0xe#4 0x8#4 0x6#4 0xcb#8) = true := by decide
theorem test_decode_rscShift : reads 0xE0F10002 (.rscShift .al true 0x1#4 0x0#4 0x00#5 .lsl 0x2#4) = true := by decide
theorem test_decode_rscReg : reads 0xE0F10734 (.rscReg .al true 0x1#4 0x0#4 0x7#4 .lsr 0x4#4) = true := by decide
theorem test_decode_tstImm : reads 0xE3110001 (.tstImm .al 0x1#4 0x0#4 0x01#8) = true := by decide
theorem test_decode_tstShift : reads 0xE11A0D62 (.tstShift .al 0xa#4 0x1a#5 .ror 0x2#4) = true := by decide
theorem test_decode_tstReg : reads 0xE11A0D38 (.tstReg .al 0xa#4 0xd#4 .lsr 0x8#4) = true := by decide
theorem test_decode_teqImm : reads 0xE33708AA (.teqImm .al 0x7#4 0x8#4 0xaa#8) = true := by decide
theorem test_decode_teqShift : reads 0xE1310002 (.teqShift .al 0x1#4 0x00#5 .lsl 0x2#4) = true := by decide
theorem test_decode_teqReg : reads 0xE1370716 (.teqReg .al 0x7#4 0x7#4 .lsl 0x6#4) = true := by decide
theorem test_decode_cmpImm : reads 0xE3510000 (.cmpImm .al 0x1#4 0x0#4 0x00#8) = true := by decide
theorem test_decode_cmpShift : reads 0xE1510002 (.cmpShift .al 0x1#4 0x00#5 .lsl 0x2#4) = true := by decide
theorem test_decode_cmpReg : reads 0xE1590753 (.cmpReg .al 0x9#4 0x7#4 .asr 0x3#4) = true := by decide
theorem test_decode_cmnImm : reads 0xE3710001 (.cmnImm .al 0x1#4 0x0#4 0x01#8) = true := by decide
theorem test_decode_cmnShift : reads 0xE1710002 (.cmnShift .al 0x1#4 0x00#5 .lsl 0x2#4) = true := by decide
theorem test_decode_cmnReg : reads 0xE175047E (.cmnReg .al 0x5#4 0x4#4 .ror 0xe#4) = true := by decide
theorem test_decode_orrImm : reads 0xE3910000 (.orrImm .al true 0x1#4 0x0#4 0x0#4 0x00#8) = true := by decide
theorem test_decode_orrShift : reads 0xE1810402 (.orrShift .al false 0x1#4 0x0#4 0x08#5 .lsl 0x2#4) = true := by decide
theorem test_decode_orrReg : reads 0xE18B0D38 (.orrReg .al false 0xb#4 0x0#4 0xd#4 .lsr 0x8#4) = true := by decide
theorem test_decode_movImm : reads 0x83A00001 (.movImm .hi false 0x0#4 0x0#4 0x01#8) = true := by decide
theorem test_decode_movShift : reads 0xE1B00001 (.movShift .al true 0x0#4 0x00#5 .lsl 0x1#4) = true := by decide
theorem test_decode_movReg : reads 0xE1B00211 (.movReg .al true 0x0#4 0x2#4 .lsl 0x1#4) = true := by decide
theorem test_decode_bicImm : reads 0xE3C100FF (.bicImm .al false 0x1#4 0x0#4 0x0#4 0xff#8) = true := by decide
theorem test_decode_bicShift : reads 0xE1D10002 (.bicShift .al true 0x1#4 0x0#4 0x00#5 .lsl 0x2#4) = true := by decide
theorem test_decode_bicReg : reads 0xE1D18877 (.bicReg .al true 0x1#4 0x8#4 0x8#4 .ror 0x7#4) = true := by decide
theorem test_decode_mvnImm : reads 0xE3E00000 (.mvnImm .al false 0x0#4 0x0#4 0x00#8) = true := by decide
theorem test_decode_mvnShift : reads 0xE1F00001 (.mvnShift .al true 0x0#4 0x00#5 .lsl 0x1#4) = true := by decide
theorem test_decode_mvnReg : reads 0xE1E05836 (.mvnReg .al false 0x5#4 0x8#4 .lsr 0x6#4) = true := by decide
theorem test_decode_ldrtImm : reads 0xE4B10004 (.ldrtImm .al true 0x1#4 0x0#4 0x004#12) = true := by decide
theorem test_decode_ldrtReg : reads 0xE6B71684 (.ldrtReg .al true 0x7#4 0x1#4 0x0d#5 .lsl 0x4#4) = true := by decide
theorem test_decode_ldrbtImm : reads 0xE4F10001 (.ldrbtImm .al true 0x1#4 0x0#4 0x001#12) = true := by decide
theorem test_decode_ldrbtReg : reads 0xE6FA65C0 (.ldrbtReg .al true 0xa#4 0x6#4 0x0b#5 .asr 0x0#4) = true := by decide
theorem test_decode_strtImm : reads 0xE4A10004 (.strtImm .al true 0x1#4 0x0#4 0x004#12) = true := by decide
theorem test_decode_strtReg : reads 0xE623FEA6 (.strtReg .al false 0x3#4 0xf#4 0x1d#5 .lsr 0x6#4) = true := by decide
theorem test_decode_strbtImm : reads 0xE4E10001 (.strbtImm .al true 0x1#4 0x0#4 0x001#12) = true := by decide
theorem test_decode_strbtReg : reads 0xE66B938B (.strbtReg .al false 0xb#4 0x9#4 0x07#5 .lsl 0xb#4) = true := by decide
theorem test_decode_ldrPcImm : reads 0xE591F000 (.ldrPcImm .al .offset true 0x1#4 0x000#12) = true := by decide
theorem test_decode_ldrPcReg : reads 0xE73EFDC3 (.ldrPcReg .al .pre false 0xe#4 0x1b#5 .asr 0x3#4) = true := by decide
theorem test_decode_ldrImm : reads 0xE5910000 (.ldrImm .al .offset true 0x1#4 0x0#4 0x000#12) = true := by decide
theorem test_decode_ldrReg : reads 0xE7910002 (.ldrReg .al .offset true 0x1#4 0x0#4 0x00#5 .lsl 0x2#4) = true := by
    decide
theorem test_decode_ldrbImm : reads 0xE5D10000 (.ldrbImm .al .offset true 0x1#4 0x0#4 0x000#12) = true := by decide
theorem test_decode_ldrbReg : reads 0xE7708A65 (.ldrbReg .al .pre false 0x0#4 0x8#4 0x14#5 .ror 0x5#4) = true := by
    decide
theorem test_decode_strImm : reads 0xE5810000 (.strImm .al .offset true 0x1#4 0x0#4 0x000#12) = true := by decide
theorem test_decode_strReg : reads 0xE72B2B8F (.strReg .al .pre false 0xb#4 0x2#4 0x17#5 .lsl 0xf#4) = true := by decide
theorem test_decode_strbImm : reads 0xE5C10001 (.strbImm .al .offset true 0x1#4 0x0#4 0x001#12) = true := by decide
theorem test_decode_strbReg : reads 0xE7EFFA28 (.strbReg .al .pre true 0xf#4 0xf#4 0x14#5 .lsr 0x8#4) = true := by
    decide
theorem test_decode_ldm : reads 0xE8B0000E (.ldm .al .ia true 0x0#4 0x000e#15) = true := by decide
theorem test_decode_ldmPc : reads 0xE8BD8010 (.ldmPc .al .ia true 0xd#4 0x0010#15) = true := by decide
theorem test_decode_ldmPcRet : reads 0xE8FD8001 (.ldmPcRet .al .ia true 0xd#4 0x0001#15) = true := by decide
theorem test_decode_ldmUser : reads 0xE8D06000 (.ldmUser .al .ia 0x0#4 0x6000#15) = true := by decide
theorem test_decode_stm : reads 0xE8A0000E (.stm .al .ia true 0x0#4 0x000e#16) = true := by decide
theorem test_decode_stmUser : reads 0xE8C06000 (.stmUser .al .ia 0x0#4 0x6000#16) = true := by decide
theorem test_decode_b : reads 0xEA000002 (.b .al 0x000002#24) = true := by decide
theorem test_decode_bl : reads 0xEB00003E (.bl .al 0x00003e#24) = true := by decide
theorem test_decode_ldcOff : reads 0xED921504 (.ldcOff .al true false false 0x2#4 0x1#4 0x5#4 0x04#8) = true := by
    decide
theorem test_decode_ldcPost : reads 0xECB09225 (.ldcPost .al true false 0x0#4 0x9#4 0x2#4 0x25#8) = true := by decide
theorem test_decode_ldcUnidx : reads 0xEC937E14 (.ldcUnidx .al false 0x3#4 0x7#4 0xe#4 0x14#8) = true := by decide
theorem test_decode_stcOff : reads 0xED221CC0 (.stcOff .al false false true 0x2#4 0x1#4 0xc#4 0xc0#8) = true := by
    decide
theorem test_decode_stcPost : reads 0xECE468AE (.stcPost .al true true 0x4#4 0x6#4 0x8#4 0xae#8) = true := by decide
theorem test_decode_stcUnidx : reads 0xEC87F613 (.stcUnidx .al false 0x7#4 0xf#4 0x6#4 0x13#8) = true := by decide
theorem test_decode_cdp : reads 0xEE1327A4 (.cdp .al 0x1#4 0x3#4 0x2#4 0x7#4 0x5#3 0x4#4) = true := by decide
theorem test_decode_mrc : reads 0xEE110F10 (.mrc .al 0x0#3 0x1#4 0x0#4 0xf#4 0x0#3 0x0#4) = true := by decide
theorem test_decode_mcr : reads 0xEEC6A5B8 (.mcr .al 0x6#3 0x6#4 0xa#4 0x5#4 0x5#3 0x8#4) = true := by decide
theorem test_decode_swi : reads 0xEF000000 (.swi .al 0x000000#24) = true := by decide
theorem test_decode_undefReg : reads 0xE7F000F0 (.undefReg .al 0xf8007#20 0x0#4) = true := by decide
theorem test_decode_undefImm : reads 0xE3000000 (.undefImm .al false 0x00000#20) = true := by decide

/-! ## One step: the spec's vectors -/

/-- A state with R15, CPSR, registers of the current mode and words of memory given, the rest as at reset. -/
def machine (pc cpsr : Word) (regs : List (Reg × Word)) (mem : List (Word × Word)) : State :=
  let s : State := { State.reset with
    pc := pc, cpsr := cpsr, mem := mem.foldl (fun m x => m.store .word x.1 x.2) [] }
  s.setBankRegs s.bank regs

/-- The state with the SPSR of a bank given. -/
def saving (s : State) (b : Bank) (v : Word) : State := { s with spsr := s.spsr.set b v }

/-- One step at a state that runs the word `w` answers a next state of which `p` is true. -/
def steps (w : Nat) (s : State) (p : State → Bool) : Bool :=
  match step (s.withFetchWord 32 w) with
  | .next t => p t
  | .fault _ => false
  | .refused _ => false

/-- One step at a state that runs the word `w` is refused. -/
def refuses (w : Nat) (s : State) : Bool :=
  match step (s.withFetchWord 32 w) with
  | .refused _ => true
  | .next _ => false
  | .fault _ => false

/-- V140: `BLX 0x8102` -/
theorem test_V140_blxLabel :
    steps 0xFB00003E (machine 0x8000#32 0x000000D3#32 [] []) (fun t =>
      t.pc == 0x8102#32 && t.cpsr == 0x000000F3#32 && t.reg 14#4 == 0x8004#32) = true := by decide
/-- V88: `MULS R0, R1, R2` -/
theorem test_V88_mul :
    steps 0xE0100291 (machine 0x8000#32 0x300000D3#32 [(1#4, 0xFFFFFFFF#32), (2#4, 0x1#32)] []) (fun t =>
      t.pc == 0x8004#32 && t.cpsr == 0xB00000D3#32 && t.reg 0#4 == 0xFFFFFFFF#32) = true := by decide
/-- V92: `MLAS R0, R1, R2, R3` -/
theorem test_V92_mla :
    steps 0xE0303291 (machine 0x8000#32 0x200000D3#32 [(1#4, 0xFFFFFFFF#32), (2#4, 0x2#32), (3#4, 0x2#32)] []) (fun t =>
      t.pc == 0x8004#32 && t.cpsr == 0x600000D3#32 && t.reg 0#4 == 0x0#32) = true := by decide
/-- V94: `UMULLS R0, R3, R1, R2` -/
theorem test_V94_umull :
    steps 0xE0930291 (machine 0x8000#32 0x300000D3#32 [(1#4, 0x80000000#32), (2#4, 0x2#32)] []) (fun t =>
      t.pc == 0x8004#32 && t.cpsr == 0x300000D3#32 && t.reg 0#4 == 0x0#32 && t.reg 3#4 == 0x1#32) = true := by decide
/-- V95: `UMLAL R0, R3, R1, R2` -/
theorem test_V95_umlal :
    steps 0xE0A30291 (machine 0x8000#32 0x000000D3#32 [(0#4, 0xFFFFFFFF#32), (3#4, 0x0#32), (1#4, 0x1#32), (2#4,
        0x1#32)] []) (fun t =>
      t.pc == 0x8004#32 && t.cpsr == 0x000000D3#32 && t.reg 0#4 == 0x0#32 && t.reg 3#4 == 0x1#32) = true := by decide
/-- V97: `SMULLS R0, R3, R1, R2` -/
theorem test_V97_smull :
    steps 0xE0D30291 (machine 0x8000#32 0x000000D3#32 [(1#4, 0x80000000#32), (2#4, 0x80000000#32)] []) (fun t =>
      t.pc == 0x8004#32 && t.cpsr == 0x000000D3#32 && t.reg 0#4 == 0x0#32 && t.reg 3#4 == 0x40000000#32) = true := by
          decide
/-- V98: `SMLAL R0, R3, R1, R2` -/
theorem test_V98_smlal :
    steps 0xE0E30291 (machine 0x8000#32 0x000000D3#32 [(0#4, 0x1#32), (3#4, 0x0#32), (1#4, 0xFFFFFFFF#32), (2#4,
        0x1#32)] []) (fun t =>
      t.pc == 0x8004#32 && t.cpsr == 0x000000D3#32 && t.reg 0#4 == 0x0#32 && t.reg 3#4 == 0x0#32) = true := by decide
/-- V206: `SWP R0, R0, [R2]` -/
theorem test_V206_swp :
    steps 0xE1020090 (machine 0x8000#32 0x000000D3#32 [(0#4, 0x11111111#32), (2#4, 0x2000#32)] [(0x2000#32,
        0xAABBCCDD#32)]) (fun t =>
      t.pc == 0x8004#32 && t.cpsr == 0x000000D3#32 && t.reg 0#4 == 0xAABBCCDD#32 && t.mem.load .word 0x2000#32 ==
          0x11111111#32) = true := by decide
/-- V207: `SWPB R0, R1, [R2]` -/
theorem test_V207_swpb :
    steps 0xE1420091 (machine 0x8000#32 0x000000D3#32 [(1#4, 0x11111122#32), (2#4, 0x2001#32)] [(0x2000#32,
        0xAABBCCDD#32)]) (fun t =>
      t.pc == 0x8004#32 && t.cpsr == 0x000000D3#32 && t.reg 0#4 == 0xCC#32 && t.mem.load .word 0x2000#32 ==
          0xAABB22DD#32) = true := by decide
/-- V167: `LDRH R0, [R1, #0x12]!` -/
theorem test_V167_ldrhImm :
    steps 0xE1F101B2 (machine 0x8000#32 0x000000D3#32 [(1#4, 0xFF6#32)] [(0xFFC#32, 0xDDEEFF00#32), (0x1000#32,
        0x11223344#32), (0x1004#32, 0x55667788#32), (0x1008#32, 0x99AABBCC#32)]) (fun t =>
      t.pc == 0x8004#32 && t.cpsr == 0x000000D3#32 && t.reg 0#4 == 0xBBCC#32 && t.reg 1#4 == 0x1008#32) = true := by
          decide
/-- V160: `LDRSB R0, [R1, #10]` -/
theorem test_V160_ldrsbImm :
    steps 0xE1D100DA (machine 0x8000#32 0x000000D3#32 [(1#4, 0x1000#32)] [(0xFFC#32, 0xDDEEFF00#32), (0x1000#32,
        0x11223344#32), (0x1004#32, 0x55667788#32), (0x1008#32, 0x99AABBCC#32)]) (fun t =>
      t.pc == 0x8004#32 && t.cpsr == 0x000000D3#32 && t.reg 0#4 == 0xFFFFFFAA#32) = true := by decide
/-- V164: `LDRSH R0, [R1, #8]` -/
theorem test_V164_ldrshImm :
    steps 0xE1D100F8 (machine 0x8000#32 0x000000D3#32 [(1#4, 0x1000#32)] [(0xFFC#32, 0xDDEEFF00#32), (0x1000#32,
        0x11223344#32), (0x1004#32, 0x55667788#32), (0x1008#32, 0x99AABBCC#32)]) (fun t =>
      t.pc == 0x8004#32 && t.cpsr == 0x000000D3#32 && t.reg 0#4 == 0xFFFFBBCC#32) = true := by decide
/-- V165: `LDRSH R0, [R1], #-2` -/
theorem test_V165_ldrshImmPost :
    steps 0xE05100F2 (machine 0x8000#32 0x000000D3#32 [(1#4, 0x1000#32)] [(0xFFC#32, 0xDDEEFF00#32), (0x1000#32,
        0x11223344#32), (0x1004#32, 0x55667788#32), (0x1008#32, 0x99AABBCC#32)]) (fun t =>
      t.pc == 0x8004#32 && t.cpsr == 0x000000D3#32 && t.reg 0#4 == 0x3344#32 && t.reg 1#4 == 0xFFE#32) = true := by
          decide
/-- V174: `STRH R0, [R1, #2]` -/
theorem test_V174_strhImm :
    steps 0xE1C100B2 (machine 0x8000#32 0x000000D3#32 [(0#4, 0x11223344#32), (1#4, 0x2000#32)] [(0x2000#32,
        0xAAAAAAAA#32), (0x2004#32, 0xBBBBBBBB#32)]) (fun t =>
      t.pc == 0x8004#32 && t.cpsr == 0x000000D3#32 && t.mem.load .word 0x2000#32 == 0x3344AAAA#32) = true := by decide
/-- V43: `MRS R0, CPSR` -/
theorem test_V43_mrsCpsr :
    steps 0xE10F0000 (machine 0x8000#32 0x600000D3#32 [] []) (fun t =>
      t.pc == 0x8004#32 && t.cpsr == 0x600000D3#32 && t.reg 0#4 == 0x600000D3#32) = true := by decide
/-- V44: `MRS R0, SPSR` -/
theorem test_V44_mrsSpsr :
    steps 0xE14F0000 (saving ((machine 0x8000#32 0x000000D3#32 [] [])) .svc 0x80000010#32) (fun t =>
      t.pc == 0x8004#32 && t.cpsr == 0x000000D3#32 && t.reg 0#4 == 0x80000010#32) = true := by decide
/-- V48: `MSR CPSR_f, R1` -/
theorem test_V48_msrCpsrReg :
    steps 0xE128F001 (machine 0x8000#32 0x000000D3#32 [(1#4, 0x8000000#32)] []) (fun t =>
      t.pc == 0x8004#32 && t.cpsr == 0x080000D3#32) = true := by decide
/-- V51: `MSR CPSR_c, #0xD2` -/
theorem test_V51_msrCpsrImm :
    steps 0xE321F0D2 (((machine 0x8000#32 0x600000D3#32 [(13#4, 0x3000#32)] []).setBankReg .irq 13#4 0x4000#32)) (fun
        t =>
      t.pc == 0x8004#32 && t.cpsr == 0x600000D2#32 && t.reg 13#4 == 0x4000#32) = true := by decide
/-- V57: `MSR SPSR_fc, R1` -/
theorem test_V57_msrSpsrReg :
    steps 0xE169F001 (saving ((machine 0x8000#32 0x000000D3#32 [(1#4, 0x60000030#32)] [])) .svc 0x10#32) (fun t =>
      t.pc == 0x8004#32 && t.cpsr == 0x000000D3#32 && t.spsr.get .svc == some 0x60000030#32) = true := by decide
/-- V138: `BX R1` -/
theorem test_V138_bx :
    steps 0xE12FFF11 (machine 0x8000#32 0x000000D3#32 [(1#4, 0x9001#32)] []) (fun t =>
      t.pc == 0x9000#32 && t.cpsr == 0x000000F3#32) = true := by decide
/-- V142: `BLX R1` -/
theorem test_V142_blxReg :
    steps 0xE12FFF31 (machine 0x8000#32 0x000000D3#32 [(1#4, 0x9001#32)] []) (fun t =>
      t.pc == 0x9000#32 && t.cpsr == 0x000000F3#32 && t.reg 14#4 == 0x8004#32) = true := by decide
/-- V113: `CLZ R0, R1` -/
theorem test_V113_clz :
    steps 0xE16F0F11 (machine 0x8000#32 0x000000D3#32 [(1#4, 0x12345#32)] []) (fun t =>
      t.pc == 0x8004#32 && t.cpsr == 0x000000D3#32 && t.reg 0#4 == 0xF#32) = true := by decide
/-- V215: `BKPT 0xABCD` -/
theorem test_V215_bkpt :
    steps 0xE12ABC7D (machine 0x8000#32 0x00000010#32 [] []) (fun t =>
      t.pc == 0xC#32 && t.cpsr == 0x00000097#32 && t.reg 14#4 == 0x8004#32 && t.spsr.get .abt == some 0x10#32) = true
          := by decide
/-- V77: `QADD R0, R1, R2` -/
theorem test_V77_qadd :
    steps 0xE1020051 (machine 0x8000#32 0x000000D3#32 [(1#4, 0x80000000#32), (2#4, 0xFFFFFFFF#32)] []) (fun t =>
      t.pc == 0x8004#32 && t.cpsr == 0x080000D3#32 && t.reg 0#4 == 0x80000000#32) = true := by decide
/-- V79: `QSUB R0, R1, R2` -/
theorem test_V79_qsub :
    steps 0xE1220051 (machine 0x8000#32 0x000000D3#32 [(1#4, 0x80000000#32), (2#4, 0x1#32)] []) (fun t =>
      t.pc == 0x8004#32 && t.cpsr == 0x080000D3#32 && t.reg 0#4 == 0x80000000#32) = true := by decide
/-- V83: `QDADD R0, R1, R2` -/
theorem test_V83_qdadd :
    steps 0xE1420051 (machine 0x8000#32 0x000000D3#32 [(1#4, 0x80000000#32), (2#4, 0x40000000#32)] []) (fun t =>
      t.pc == 0x8004#32 && t.cpsr == 0x080000D3#32 && t.reg 0#4 == 0xFFFFFFFF#32) = true := by decide
/-- V84: `QDSUB R0, R1, R2` -/
theorem test_V84_qdsub :
    steps 0xE1620051 (machine 0x8000#32 0x000000D3#32 [(1#4, 0x0#32), (2#4, 0xC0000000#32)] []) (fun t =>
      t.pc == 0x8004#32 && t.cpsr == 0x080000D3#32 && t.reg 0#4 == 0x7FFFFFFF#32) = true := by decide
/-- V107: `SMLABB R0, R1, R2, R3` -/
theorem test_V107_smlaxy :
    steps 0xE1003281 (machine 0x8000#32 0x000000D3#32 [(1#4, 0x2#32), (2#4, 0x3#32), (3#4, 0x7FFFFFFF#32)] []) (fun t =>
      t.pc == 0x8004#32 && t.cpsr == 0x080000D3#32 && t.reg 0#4 == 0x80000005#32) = true := by decide
/-- V108: `SMLAWB R0, R1, R2, R3` -/
theorem test_V108_smlawy :
    steps 0xE1203281 (machine 0x8000#32 0x000000D3#32 [(1#4, 0x10000#32), (2#4, 0x2#32), (3#4, 0x5#32)] []) (fun t =>
      t.pc == 0x8004#32 && t.cpsr == 0x000000D3#32 && t.reg 0#4 == 0x7#32) = true := by decide
/-- V105: `SMULWT R0, R1, R2` -/
theorem test_V105_smulwy :
    steps 0xE12002E1 (machine 0x8000#32 0x000000D3#32 [(1#4, 0xFFFF0000#32), (2#4, 0x30000#32)] []) (fun t =>
      t.pc == 0x8004#32 && t.cpsr == 0x000000D3#32 && t.reg 0#4 == 0xFFFFFFFD#32) = true := by decide
/-- V109: `SMLALBB R0, R3, R1, R2` -/
theorem test_V109_smlalxy :
    steps 0xE1430281 (machine 0x8000#32 0x000000D3#32 [(0#4, 0xFFFFFFFF#32), (3#4, 0x0#32), (1#4, 0x1#32), (2#4,
        0x1#32)] []) (fun t =>
      t.pc == 0x8004#32 && t.cpsr == 0x000000D3#32 && t.reg 0#4 == 0x0#32 && t.reg 3#4 == 0x1#32) = true := by decide
/-- V102: `SMULBT R0, R1, R2` -/
theorem test_V102_smulxy :
    steps 0xE16002C1 (machine 0x8000#32 0x000000D3#32 [(1#4, 0x1FFFF#32), (2#4, 0x20003#32)] []) (fun t =>
      t.pc == 0x8004#32 && t.cpsr == 0x000000D3#32 && t.reg 0#4 == 0xFFFFFFFE#32) = true := by decide
/-- V125: `NOP` -/
theorem test_V125_nop :
    steps 0xE1A00000 (machine 0x8000#32 0xA00000D3#32 [] []) (fun t =>
      t.pc == 0x8004#32 && t.cpsr == 0xA00000D3#32) = true := by decide
/-- V119: `AND R0, R1, #0xFF` -/
theorem test_V119_andImm :
    steps 0xE20100FF (machine 0x8000#32 0x000000D3#32 [(1#4, 0x12345678#32)] []) (fun t =>
      t.pc == 0x8004#32 && t.cpsr == 0x000000D3#32 && t.reg 0#4 == 0x78#32) = true := by decide
/-- V118: `ANDS R0, R1, R2` -/
theorem test_V118_andShift :
    steps 0xE0110002 (machine 0x8000#32 0x200000D3#32 [(1#4, 0xF0F0F0F0#32), (2#4, 0xF0F0F0F#32)] []) (fun t =>
      t.pc == 0x8004#32 && t.cpsr == 0x600000D3#32 && t.reg 0#4 == 0x0#32) = true := by decide
/-- V120: `EORS R0, R1, R2` -/
theorem test_V120_eorShift :
    steps 0xE0310002 (machine 0x8000#32 0x000000D3#32 [(1#4, 0xFFFF0000#32), (2#4, 0xFFFF#32)] []) (fun t =>
      t.pc == 0x8004#32 && t.cpsr == 0x800000D3#32 && t.reg 0#4 == 0xFFFFFFFF#32) = true := by decide
/-- V68: `SUBS R0, R1, R2` -/
theorem test_V68_subShift :
    steps 0xE0510002 (machine 0x8000#32 0x000000D3#32 [(1#4, 0x80000000#32), (2#4, 0x1#32)] []) (fun t =>
      t.pc == 0x8004#32 && t.cpsr == 0x300000D3#32 && t.reg 0#4 == 0x7FFFFFFF#32) = true := by decide
/-- V73: `RSBS R0, R1, #0` -/
theorem test_V73_rsbImm :
    steps 0xE2710000 (machine 0x8000#32 0x000000D3#32 [(1#4, 0x80000000#32)] []) (fun t =>
      t.pc == 0x8004#32 && t.cpsr == 0x900000D3#32 && t.reg 0#4 == 0x80000000#32) = true := by decide
/-- V63: `ADD R0, R15, #8` -/
theorem test_V63_addImm :
    steps 0xE28F0008 (machine 0x8000#32 0x000000D3#32 [] []) (fun t =>
      t.pc == 0x8004#32 && t.cpsr == 0x000000D3#32 && t.reg 0#4 == 0x8010#32) = true := by decide
/-- V60: `ADDS R0, R1, R2` -/
theorem test_V60_addShift :
    steps 0xE0910002 (machine 0x8000#32 0x000000D3#32 [(1#4, 0xFFFFFFFF#32), (2#4, 0x1#32)] []) (fun t =>
      t.pc == 0x8004#32 && t.cpsr == 0x600000D3#32 && t.reg 0#4 == 0x0#32) = true := by decide
/-- V65: `ADCS R0, R1, R2` -/
theorem test_V65_adcShift :
    steps 0xE0B10002 (machine 0x8000#32 0x000000D3#32 [(1#4, 0x1#32), (2#4, 0x2#32)] []) (fun t =>
      t.pc == 0x8004#32 && t.cpsr == 0x000000D3#32 && t.reg 0#4 == 0x3#32) = true := by decide
/-- V71: `SBCS R0, R1, R2` -/
theorem test_V71_sbcShift :
    steps 0xE0D10002 (machine 0x8000#32 0x000000D3#32 [(1#4, 0x0#32), (2#4, 0x0#32)] []) (fun t =>
      t.pc == 0x8004#32 && t.cpsr == 0x800000D3#32 && t.reg 0#4 == 0xFFFFFFFF#32) = true := by decide
/-- V75: `RSCS R0, R1, R2` -/
theorem test_V75_rscShift :
    steps 0xE0F10002 (machine 0x8000#32 0x200000D3#32 [(1#4, 0x3#32), (2#4, 0x5#32)] []) (fun t =>
      t.pc == 0x8004#32 && t.cpsr == 0x200000D3#32 && t.reg 0#4 == 0x2#32) = true := by decide
/-- V114: `TST R1, #1` -/
theorem test_V114_tstImm :
    steps 0xE3110001 (machine 0x8000#32 0x300000D3#32 [(1#4, 0x2#32)] []) (fun t =>
      t.pc == 0x8004#32 && t.cpsr == 0x700000D3#32) = true := by decide
/-- V117: `TEQ R1, R2` -/
theorem test_V117_teqShift :
    steps 0xE1310002 (machine 0x8000#32 0x000000D3#32 [(1#4, 0x80000000#32), (2#4, 0x1#32)] []) (fun t =>
      t.pc == 0x8004#32 && t.cpsr == 0x800000D3#32) = true := by decide
/-- V128: `CMP R1, R2` -/
theorem test_V128_cmpShift :
    steps 0xE1510002 (machine 0x8000#32 0x000000D3#32 [(1#4, 0x80000000#32), (2#4, 0x1#32)] []) (fun t =>
      t.pc == 0x8004#32 && t.cpsr == 0x300000D3#32) = true := by decide
/-- V129: `CMP R1, #0` -/
theorem test_V129_cmpImm :
    steps 0xE3510000 (machine 0x8000#32 0x000000D3#32 [(1#4, 0x0#32)] []) (fun t =>
      t.pc == 0x8004#32 && t.cpsr == 0x600000D3#32) = true := by decide
/-- V131: `CMN R1, #1` -/
theorem test_V131_cmnImm :
    steps 0xE3710001 (machine 0x8000#32 0x000000D3#32 [(1#4, 0x7FFFFFFF#32)] []) (fun t =>
      t.pc == 0x8004#32 && t.cpsr == 0x900000D3#32) = true := by decide
/-- V130: `CMN R1, R2` -/
theorem test_V130_cmnShift :
    steps 0xE1710002 (machine 0x8000#32 0x000000D3#32 [(1#4, 0xFFFFFFFF#32), (2#4, 0x1#32)] []) (fun t =>
      t.pc == 0x8004#32 && t.cpsr == 0x600000D3#32) = true := by decide
/-- V122: `ORRS R0, R1, #0` -/
theorem test_V122_orrImm :
    steps 0xE3910000 (machine 0x8000#32 0x800000D3#32 [(1#4, 0x0#32)] []) (fun t =>
      t.pc == 0x8004#32 && t.cpsr == 0x400000D3#32 && t.reg 0#4 == 0x0#32) = true := by decide
/-- V121: `ORR R0, R1, R2, LSL #8` -/
theorem test_V121_orrShift :
    steps 0xE1810402 (machine 0x8000#32 0x000000D3#32 [(1#4, 0x1#32), (2#4, 0xAB#32)] []) (fun t =>
      t.pc == 0x8004#32 && t.cpsr == 0x000000D3#32 && t.reg 0#4 == 0xAB01#32) = true := by decide
/-- V3: `MOVHI R0, #1` -/
theorem test_V3_movImm :
    steps 0x83A00001 (machine 0x8000#32 0x600000D3#32 [(0#4, 0x0#32)] []) (fun t =>
      t.pc == 0x8004#32 && t.cpsr == 0x600000D3#32 && t.reg 0#4 == 0x0#32) = true := by decide
/-- V15: `MOVS R0, R1, LSL #31` -/
theorem test_V15_movShift :
    steps 0xE1B00F81 (machine 0x8000#32 0x000000D3#32 [(1#4, 0x3#32)] []) (fun t =>
      t.pc == 0x8004#32 && t.cpsr == 0xA00000D3#32 && t.reg 0#4 == 0x80000000#32) = true := by decide
/-- V24: `MOVS R0, R1, LSL R2` -/
theorem test_V24_movReg :
    steps 0xE1B00211 (machine 0x8000#32 0x200000D3#32 [(1#4, 0x80000001#32), (2#4, 0x0#32)] []) (fun t =>
      t.pc == 0x8004#32 && t.cpsr == 0xA00000D3#32 && t.reg 0#4 == 0x80000001#32) = true := by decide
/-- V26: `MOVS R0, R1, LSL R2` -/
theorem test_V26_movReg :
    steps 0xE1B00211 (machine 0x8000#32 0x200000D3#32 [(1#4, 0x80000001#32), (2#4, 0x21#32)] []) (fun t =>
      t.pc == 0x8004#32 && t.cpsr == 0x400000D3#32 && t.reg 0#4 == 0x0#32) = true := by decide
/-- V123: `BIC R0, R1, #0xFF` -/
theorem test_V123_bicImm :
    steps 0xE3C100FF (machine 0x8000#32 0x000000D3#32 [(1#4, 0x12345678#32)] []) (fun t =>
      t.pc == 0x8004#32 && t.cpsr == 0x000000D3#32 && t.reg 0#4 == 0x12345600#32) = true := by decide
/-- V124: `BICS R0, R1, R2` -/
theorem test_V124_bicShift :
    steps 0xE1D10002 (machine 0x8000#32 0x000000D3#32 [(1#4, 0xFFFFFFFF#32), (2#4, 0x7FFFFFFF#32)] []) (fun t =>
      t.pc == 0x8004#32 && t.cpsr == 0x800000D3#32 && t.reg 0#4 == 0x80000000#32) = true := by decide
/-- V37: `MVN R0, #0` -/
theorem test_V37_mvnImm :
    steps 0xE3E00000 (machine 0x8000#32 0x000000D3#32 [] []) (fun t =>
      t.pc == 0x8004#32 && t.cpsr == 0x000000D3#32 && t.reg 0#4 == 0xFFFFFFFF#32) = true := by decide
/-- V38: `MVNS R0, R1` -/
theorem test_V38_mvnShift :
    steps 0xE1F00001 (machine 0x8000#32 0x200000D3#32 [(1#4, 0xFFFFFFFF#32)] []) (fun t =>
      t.pc == 0x8004#32 && t.cpsr == 0x600000D3#32 && t.reg 0#4 == 0x0#32) = true := by decide
/-- V168: `LDRT R0, [R1], #4` -/
theorem test_V168_ldrtImm :
    steps 0xE4B10004 (machine 0x8000#32 0x000000D3#32 [(1#4, 0x1000#32)] [(0xFFC#32, 0xDDEEFF00#32), (0x1000#32,
        0x11223344#32), (0x1004#32, 0x55667788#32), (0x1008#32, 0x99AABBCC#32)]) (fun t =>
      t.pc == 0x8004#32 && t.cpsr == 0x000000D3#32 && t.reg 0#4 == 0x11223344#32 && t.reg 1#4 == 0x1004#32) = true :=
          by decide
/-- V169: `LDRBT R0, [R1], #1` -/
theorem test_V169_ldrbtImm :
    steps 0xE4F10001 (machine 0x8000#32 0x000000D3#32 [(1#4, 0x1001#32)] [(0xFFC#32, 0xDDEEFF00#32), (0x1000#32,
        0x11223344#32), (0x1004#32, 0x55667788#32), (0x1008#32, 0x99AABBCC#32)]) (fun t =>
      t.pc == 0x8004#32 && t.cpsr == 0x000000D3#32 && t.reg 0#4 == 0x33#32 && t.reg 1#4 == 0x1002#32) = true := by
          decide
/-- V175: `STRT R0, [R1], #4` -/
theorem test_V175_strtImm :
    steps 0xE4A10004 (machine 0x8000#32 0x000000D3#32 [(0#4, 0x11223344#32), (1#4, 0x2000#32)] [(0x2000#32,
        0xAAAAAAAA#32), (0x2004#32, 0xBBBBBBBB#32)]) (fun t =>
      t.pc == 0x8004#32 && t.cpsr == 0x000000D3#32 && t.reg 1#4 == 0x2004#32 && t.mem.load .word 0x2000#32 ==
          0x11223344#32) = true := by decide
/-- V176: `STRBT R0, [R1], #1` -/
theorem test_V176_strbtImm :
    steps 0xE4E10001 (machine 0x8000#32 0x000000D3#32 [(0#4, 0x11223344#32), (1#4, 0x2003#32)] [(0x2000#32,
        0xAAAAAAAA#32), (0x2004#32, 0xBBBBBBBB#32)]) (fun t =>
      t.pc == 0x8004#32 && t.cpsr == 0x000000D3#32 && t.reg 1#4 == 0x2004#32 && t.mem.load .word 0x2000#32 ==
          0x44AAAAAA#32) = true := by decide
/-- V155: `LDR R15, [R1]` -/
theorem test_V155_ldrPcImm :
    steps 0xE591F000 (machine 0x8000#32 0x000000D3#32 [(1#4, 0x2000#32)] [(0x2000#32, 0x9001#32), (0xFFC#32,
        0xDDEEFF00#32), (0x1000#32, 0x11223344#32), (0x1004#32, 0x55667788#32), (0x1008#32, 0x99AABBCC#32)]) (fun t =>
      t.pc == 0x9000#32 && t.cpsr == 0x000000F3#32) = true := by decide
/-- V147: `LDR R0, [R1], #4` -/
theorem test_V147_ldrImm :
    steps 0xE4910004 (machine 0x8000#32 0x000000D3#32 [(1#4, 0x1000#32)] [(0xFFC#32, 0xDDEEFF00#32), (0x1000#32,
        0x11223344#32), (0x1004#32, 0x55667788#32), (0x1008#32, 0x99AABBCC#32)]) (fun t =>
      t.pc == 0x8004#32 && t.cpsr == 0x000000D3#32 && t.reg 0#4 == 0x11223344#32 && t.reg 1#4 == 0x1004#32) = true :=
          by decide
/-- V151: `LDR R0, [R1], R2, ASR #1` -/
theorem test_V151_ldrReg :
    steps 0xE69100C2 (machine 0x8000#32 0x000000D3#32 [(1#4, 0x1008#32), (2#4, 0xFFFFFFF0#32)] [(0xFFC#32,
        0xDDEEFF00#32), (0x1000#32, 0x11223344#32), (0x1004#32, 0x55667788#32), (0x1008#32, 0x99AABBCC#32)]) (fun t =>
      t.pc == 0x8004#32 && t.cpsr == 0x000000D3#32 && t.reg 0#4 == 0x99AABBCC#32 && t.reg 1#4 == 0x1000#32) = true :=
          by decide
/-- V159: `LDRB R0, [R1, #10]` -/
theorem test_V159_ldrbImm :
    steps 0xE5D1000A (machine 0x8000#32 0x000000D3#32 [(1#4, 0x1000#32)] [(0xFFC#32, 0xDDEEFF00#32), (0x1000#32,
        0x11223344#32), (0x1004#32, 0x55667788#32), (0x1008#32, 0x99AABBCC#32)]) (fun t =>
      t.pc == 0x8004#32 && t.cpsr == 0x000000D3#32 && t.reg 0#4 == 0xAA#32) = true := by decide
/-- V171: `STR R0, [R1, #4]!` -/
theorem test_V171_strImm :
    steps 0xE5A10004 (machine 0x8000#32 0x000000D3#32 [(0#4, 0x11223344#32), (1#4, 0x2000#32)] [(0x2000#32,
        0xAAAAAAAA#32), (0x2004#32, 0xBBBBBBBB#32)]) (fun t =>
      t.pc == 0x8004#32 && t.cpsr == 0x000000D3#32 && t.reg 1#4 == 0x2004#32 && t.mem.load .word 0x2000#32 ==
          0xAAAAAAAA#32 && t.mem.load .word 0x2004#32 == 0x11223344#32) = true := by decide
/-- V173: `STRB R0, [R1, #1]` -/
theorem test_V173_strbImm :
    steps 0xE5C10001 (machine 0x8000#32 0x000000D3#32 [(0#4, 0x11223344#32), (1#4, 0x2000#32)] [(0x2000#32,
        0xAAAAAAAA#32), (0x2004#32, 0xBBBBBBBB#32)]) (fun t =>
      t.pc == 0x8004#32 && t.cpsr == 0x000000D3#32 && t.mem.load .word 0x2000#32 == 0xAAAA44AA#32) = true := by decide
/-- V182: `LDMDA R0!, {R1,R2,R3}  (= LDMFA)` -/
theorem test_V182_ldm :
    steps 0xE830000E (machine 0x8000#32 0x000000D3#32 [(0#4, 0x1004#32)] [(0xFF4#32, 0x9D#32), (0xFF8#32, 0x9E#32),
        (0xFFC#32, 0x9F#32), (0x1000#32, 0xA0#32), (0x1004#32, 0xA1#32), (0x1008#32, 0xA2#32), (0x100C#32, 0xA3#32),
        (0x1010#32, 0xA4#32)]) (fun t =>
      t.pc == 0x8004#32 && t.cpsr == 0x000000D3#32 && t.reg 0#4 == 0xFF8#32 && t.reg 1#4 == 0x9F#32 && t.reg 2#4 ==
          0xA0#32 && t.reg 3#4 == 0xA1#32) = true := by decide
/-- V195: `LDMFD R13!, {R4,R15}` -/
theorem test_V195_ldmPc :
    steps 0xE8BD8010 (machine 0x8000#32 0x000000D3#32 [(13#4, 0x2FF8#32)] [(0x2FF8#32, 0x44#32), (0x2FFC#32,
        0x8005#32)]) (fun t =>
      t.pc == 0x8004#32 && t.cpsr == 0x000000F3#32 && t.reg 4#4 == 0x44#32 && t.reg 13#4 == 0x3000#32) = true := by
          decide
/-- V203: `LDMFD R13!, {R0,R15}^` -/
theorem test_V203_ldmPcRet :
    steps 0xE8FD8001 (saving (((machine 0x8000#32 0x00000092#32 [(13#4, 0x1000#32)] [(0x1000#32, 0x77#32), (0x1004#32,
        0x8124#32)]).setBankReg .usr 13#4 0x7000#32)) .irq 0x60000010#32) (fun t =>
      t.pc == 0x8124#32 && t.cpsr == 0x60000010#32 && t.reg 0#4 == 0x77#32 && t.bankReg .irq 13#4 == 0x1008#32 &&
          t.reg 13#4 == 0x7000#32) = true := by decide
/-- V200: `LDMIA R0, {R13,R14}^` -/
theorem test_V200_ldmUser :
    steps 0xE8D06000 ((((machine 0x8000#32 0x000000D2#32 [(0#4, 0x1000#32), (13#4, 0x1111#32), (14#4, 0x2222#32)]
        [(0x1000#32, 0xA0#32), (0x1004#32, 0xA1#32)]).setBankReg .usr 13#4 0xAAAA#32).setBankReg .usr 14#4 0xBBBB#32))
        (fun t =>
      t.pc == 0x8004#32 && t.cpsr == 0x000000D2#32 && t.bankReg .usr 13#4 == 0xA0#32 && t.bankReg .usr 14#4 == 0xA1#32
          && t.reg 13#4 == 0x1111#32 && t.reg 14#4 == 0x2222#32) = true := by decide
/-- V191: `STMDA R0!, {R1,R2,R3}  (= STMED)` -/
theorem test_V191_stm :
    steps 0xE820000E (machine 0x8000#32 0x000000D3#32 [(0#4, 0x2010#32), (1#4, 0x11#32), (2#4, 0x22#32), (3#4,
        0x33#32)] []) (fun t =>
      t.pc == 0x8004#32 && t.cpsr == 0x000000D3#32 && t.reg 0#4 == 0x2004#32 && t.mem.load .word 0x2008#32 == 0x11#32
          && t.mem.load .word 0x200C#32 == 0x22#32 && t.mem.load .word 0x2010#32 == 0x33#32) = true := by decide
/-- V199: `STMIA R0, {R13,R14}^` -/
theorem test_V199_stmUser :
    steps 0xE8C06000 ((((machine 0x8000#32 0x000000D2#32 [(0#4, 0x2000#32), (13#4, 0x1111#32), (14#4, 0x2222#32)]
        []).setBankReg .usr 13#4 0xAAAA#32).setBankReg .usr 14#4 0xBBBB#32)) (fun t =>
      t.pc == 0x8004#32 && t.cpsr == 0x000000D2#32 && t.mem.load .word 0x2000#32 == 0xAAAA#32 && t.mem.load .word
          0x2004#32 == 0xBBBB#32) = true := by decide
/-- V133: `B 0x8000 (to itself)` -/
theorem test_V133_b :
    steps 0xEAFFFFFE (machine 0x8000#32 0x000000D3#32 [] []) (fun t =>
      t.pc == 0x8000#32 && t.cpsr == 0x000000D3#32) = true := by decide
/-- V135: `BNE 0x8010` -/
theorem test_V135_b :
    steps 0x1A000002 (machine 0x8000#32 0x400000D3#32 [] []) (fun t =>
      t.pc == 0x8004#32 && t.cpsr == 0x400000D3#32) = true := by decide
/-- V136: `BL 0x8100` -/
theorem test_V136_bl :
    steps 0xEB00003E (machine 0x8000#32 0x000000D3#32 [] []) (fun t =>
      t.pc == 0x8100#32 && t.cpsr == 0x000000D3#32 && t.reg 14#4 == 0x8004#32) = true := by decide
/-- V218: `LDC p5, c1, [R2, #16]` -/
theorem test_V218_ldcOff :
    steps 0xED921504 (machine 0x8000#32 0x000000D3#32 [] []) (fun t =>
      t.pc == 0x4#32 && t.cpsr == 0x000000DB#32 && t.reg 14#4 == 0x8004#32 && t.spsr.get .und == some 0xD3#32) = true
          := by decide
/-- V217: `CDP p7, 1, c2, c3, c4, 5` -/
theorem test_V217_cdp :
    steps 0xEE1327A4 (machine 0x8000#32 0x00000010#32 [] []) (fun t =>
      t.pc == 0x4#32 && t.cpsr == 0x0000009B#32 && t.reg 14#4 == 0x8004#32 && t.spsr.get .und == some 0x10#32) = true
          := by decide
/-- V216: `MRC p15, 0, R0, c1, c0, 0` -/
theorem test_V216_mrc :
    steps 0xEE110F10 (machine 0x8000#32 0x600000D3#32 [] []) (fun t =>
      t.pc == 0x4#32 && t.cpsr == 0x600000DB#32 && t.reg 14#4 == 0x8004#32 && t.spsr.get .und == some 0x600000D3#32) =
          true := by decide
/-- V211: `SWI 0` -/
theorem test_V211_swi :
    steps 0xEF000000 (machine 0x8014#32 0x60000010#32 [] []) (fun t =>
      t.pc == 0x8#32 && t.cpsr == 0x60000093#32 && t.reg 14#4 == 0x8018#32 && t.spsr.get .svc == some 0x60000010#32) =
          true := by decide
/-- V219: `(no assembler form)` -/
theorem test_V219_undefReg :
    steps 0xE7F000F0 (machine 0x8000#32 0x000000D3#32 [] []) (fun t =>
      t.pc == 0x4#32 && t.cpsr == 0x000000DB#32 && t.reg 14#4 == 0x8004#32 && t.spsr.get .und == some 0xD3#32) = true
          := by decide
/-- V220: `(no assembler form)` -/
theorem test_V220_undefImm :
    steps 0xE3000000 (machine 0x8000#32 0x000000D3#32 [] []) (fun t =>
      t.pc == 0x4#32 && t.cpsr == 0x000000DB#32 && t.reg 14#4 == 0x8004#32 && t.spsr.get .und == some 0xD3#32) = true
          := by decide

/-! ## One step: hand calculations from the rules -/

/-- R202: ANDS R0, R1, R2, LSL R3 with 0xF0 shifted by 4. -/
theorem test_hand_andReg :
    steps 0xE0110312 (machine 0x8000#32 0x300000D3#32 [(1#4, 0xF01#32), (2#4, 0xF0#32), (3#4, 0x104#32)] []) (fun t =>
      t.reg 0#4 == 0xF00#32 && t.cpsr == 0x100000D3#32) = true := by decide
/-- R203: EORS R0, R1, R2, LSL R3 with 0xF0 shifted by 4. -/
theorem test_hand_eorReg :
    steps 0xE0310312 (machine 0x8000#32 0x300000D3#32 [(1#4, 0xF01#32), (2#4, 0xF0#32), (3#4, 0x104#32)] []) (fun t =>
      t.reg 0#4 == 0x1#32 && t.cpsr == 0x100000D3#32) = true := by decide
/-- R164: SUBS R0, R1, R2, LSL R3 with 0xF0 shifted by 4. -/
theorem test_hand_subReg :
    steps 0xE0510312 (machine 0x8000#32 0x000000D3#32 [(1#4, 0xF01#32), (2#4, 0xF0#32), (3#4, 0x104#32)] []) (fun t =>
      t.reg 0#4 == 0x1#32 && t.cpsr == 0x200000D3#32) = true := by decide
/-- R166: RSBS R0, R1, R2, LSL R3 with 0xF0 shifted by 4. -/
theorem test_hand_rsbReg :
    steps 0xE0710312 (machine 0x8000#32 0x200000D3#32 [(1#4, 0xF01#32), (2#4, 0xF0#32), (3#4, 0x104#32)] []) (fun t =>
      t.reg 0#4 == 0xFFFFFFFF#32 && t.cpsr == 0x800000D3#32) = true := by decide
/-- R162: ADDS R0, R1, R2, LSL R3 with 0xF0 shifted by 4. -/
theorem test_hand_addReg :
    steps 0xE0910312 (machine 0x8000#32 0x200000D3#32 [(1#4, 0xF01#32), (2#4, 0xF0#32), (3#4, 0x104#32)] []) (fun t =>
      t.reg 0#4 == 0x1E01#32 && t.cpsr == 0x000000D3#32) = true := by decide
/-- R163: ADCS R0, R1, R2, LSL R3 with 0xF0 shifted by 4. -/
theorem test_hand_adcReg :
    steps 0xE0B10312 (machine 0x8000#32 0x200000D3#32 [(1#4, 0xF01#32), (2#4, 0xF0#32), (3#4, 0x104#32)] []) (fun t =>
      t.reg 0#4 == 0x1E02#32 && t.cpsr == 0x000000D3#32) = true := by decide
/-- R165: SBCS R0, R1, R2, LSL R3 with 0xF0 shifted by 4. -/
theorem test_hand_sbcReg :
    steps 0xE0D10312 (machine 0x8000#32 0x000000D3#32 [(1#4, 0xF01#32), (2#4, 0xF0#32), (3#4, 0x104#32)] []) (fun t =>
      t.reg 0#4 == 0x0#32 && t.cpsr == 0x600000D3#32) = true := by decide
/-- R167: RSCS R0, R1, R2, LSL R3 with 0xF0 shifted by 4. -/
theorem test_hand_rscReg :
    steps 0xE0F10312 (machine 0x8000#32 0x000000D3#32 [(1#4, 0xF01#32), (2#4, 0xF0#32), (3#4, 0x104#32)] []) (fun t =>
      t.reg 0#4 == 0xFFFFFFFE#32 && t.cpsr == 0x800000D3#32) = true := by decide
/-- R204: ORRS R0, R1, R2, LSL R3 with 0xF0 shifted by 4. -/
theorem test_hand_orrReg :
    steps 0xE1910312 (machine 0x8000#32 0x300000D3#32 [(1#4, 0xF01#32), (2#4, 0xF0#32), (3#4, 0x104#32)] []) (fun t =>
      t.reg 0#4 == 0xF01#32 && t.cpsr == 0x100000D3#32) = true := by decide
/-- R205: BICS R0, R1, R2, LSL R3 with 0xF0 shifted by 4. -/
theorem test_hand_bicReg :
    steps 0xE1D10312 (machine 0x8000#32 0x300000D3#32 [(1#4, 0xF01#32), (2#4, 0xF0#32), (3#4, 0x104#32)] []) (fun t =>
      t.reg 0#4 == 0x1#32 && t.cpsr == 0x100000D3#32) = true := by decide
/-- R141: MVNS R0, R2, LSL R3. -/
theorem test_hand_mvnReg :
    steps 0xE1F00312 (machine 0x8000#32 0x300000D3#32 [(1#4, 0xF01#32), (2#4, 0xF0#32), (3#4, 0x104#32)] []) (fun t =>
      t.reg 0#4 == 0xFFFFF0FF#32 && t.cpsr == 0x900000D3#32) = true := by decide
/-- R200: TST R1, R2, LSL R3. -/
theorem test_hand_tstReg :
    steps 0xE1110312 (machine 0x8000#32 0x300000D3#32 [(1#4, 0xF01#32), (2#4, 0xF0#32), (3#4, 0x104#32)] []) (fun t =>
      t.cpsr == 0x100000D3#32 && t.pc == 0x8004#32) = true := by decide
/-- R201: TEQ R1, R2, LSL R3. -/
theorem test_hand_teqReg :
    steps 0xE1310312 (machine 0x8000#32 0x300000D3#32 [(1#4, 0xF01#32), (2#4, 0xF0#32), (3#4, 0x104#32)] []) (fun t =>
      t.cpsr == 0x100000D3#32 && t.pc == 0x8004#32) = true := by decide
/-- R208: CMP R1, R2, LSL R3. -/
theorem test_hand_cmpReg :
    steps 0xE1510312 (machine 0x8000#32 0x300000D3#32 [(1#4, 0xF01#32), (2#4, 0xF0#32), (3#4, 0x104#32)] []) (fun t =>
      t.cpsr == 0x200000D3#32 && t.pc == 0x8004#32) = true := by decide
/-- R209: CMN R1, R2, LSL R3. -/
theorem test_hand_cmnReg :
    steps 0xE1710312 (machine 0x8000#32 0x300000D3#32 [(1#4, 0xF01#32), (2#4, 0xF0#32), (3#4, 0x104#32)] []) (fun t =>
      t.cpsr == 0x000000D3#32 && t.pc == 0x8004#32) = true := by decide
/-- R203: EORS R0, R1, #0xFF with R1 = 0x101. -/
theorem test_hand_eorImm :
    steps 0xE23100FF (machine 0x8000#32 0x300000D3#32 [(1#4, 0x101#32)] []) (fun t =>
      t.reg 0#4 == 0x1FE#32 && t.cpsr == 0x300000D3#32) = true := by decide
/-- R164: SUBS R0, R1, #0xFF with R1 = 0x101. -/
theorem test_hand_subImm :
    steps 0xE25100FF (machine 0x8000#32 0x000000D3#32 [(1#4, 0x101#32)] []) (fun t =>
      t.reg 0#4 == 0x2#32 && t.cpsr == 0x200000D3#32) = true := by decide
/-- R163: ADCS R0, R1, #0xFF with R1 = 0x101. -/
theorem test_hand_adcImm :
    steps 0xE2B100FF (machine 0x8000#32 0x200000D3#32 [(1#4, 0x101#32)] []) (fun t =>
      t.reg 0#4 == 0x201#32 && t.cpsr == 0x000000D3#32) = true := by decide
/-- R165: SBCS R0, R1, #0xFF with R1 = 0x101. -/
theorem test_hand_sbcImm :
    steps 0xE2D100FF (machine 0x8000#32 0x000000D3#32 [(1#4, 0x101#32)] []) (fun t =>
      t.reg 0#4 == 0x1#32 && t.cpsr == 0x200000D3#32) = true := by decide
/-- R167: RSCS R0, R1, #0xFF with R1 = 0x101. -/
theorem test_hand_rscImm :
    steps 0xE2F100FF (machine 0x8000#32 0x000000D3#32 [(1#4, 0x101#32)] []) (fun t =>
      t.reg 0#4 == 0xFFFFFFFD#32 && t.cpsr == 0x800000D3#32) = true := by decide
/-- R201: TEQ R1, #0xFF. -/
theorem test_hand_teqImm :
    steps 0xE33100FF (machine 0x8000#32 0x300000D3#32 [(1#4, 0xFF#32)] []) (fun t =>
      t.cpsr == 0x700000D3#32) = true := by decide
/-- R166: RSBS R0, R1, R2, LSL #4. -/
theorem test_hand_rsbShift :
    steps 0xE0710202 (machine 0x8000#32 0x000000D3#32 [(1#4, 0xF01#32), (2#4, 0xF0#32)] []) (fun t =>
      t.reg 0#4 == 0xFFFFFFFF#32 && t.cpsr == 0x800000D3#32) = true := by decide
/-- R200: TST R1, R2, LSR #1 with carry-out 1. -/
theorem test_hand_tstShift :
    steps 0xE11100A2 (machine 0x8000#32 0x000000D3#32 [(1#4, 0xFF#32), (2#4, 0x3#32)] []) (fun t =>
      t.cpsr == 0x200000D3#32) = true := by decide
/-- R256: LDRH R0, [R1], #2. -/
theorem test_hand_ldrhImmPost :
    steps 0xE0D100B2 (machine 0x8000#32 0x000000D3#32 [(1#4, 0x1006#32)] [(0x1000#32, 0x11223344#32), (0x1004#32,
        0x8899AABB#32)]) (fun t =>
      t.reg 0#4 == 0x8899#32 && t.reg 1#4 == 0x1008#32) = true := by decide
/-- R256: LDRH R0, [R1, -R2]!. -/
theorem test_hand_ldrhReg :
    steps 0xE13100B2 (machine 0x8000#32 0x000000D3#32 [(1#4, 0x1008#32), (2#4, 0x4#32)] [(0x1000#32, 0x11223344#32),
        (0x1004#32, 0x8899AABB#32)]) (fun t =>
      t.reg 0#4 == 0xAABB#32 && t.reg 1#4 == 0x1004#32) = true := by decide
/-- R256: LDRH R0, [R1], -R2. -/
theorem test_hand_ldrhRegPost :
    steps 0xE01100B2 (machine 0x8000#32 0x000000D3#32 [(1#4, 0x1004#32), (2#4, 0x4#32)] [(0x1000#32, 0x11223344#32),
        (0x1004#32, 0x8899AABB#32)]) (fun t =>
      t.reg 0#4 == 0xAABB#32 && t.reg 1#4 == 0x1000#32) = true := by decide
/-- R255: LDRSB R0, [R1], #1. -/
theorem test_hand_ldrsbImmPost :
    steps 0xE0D100D1 (machine 0x8000#32 0x000000D3#32 [(1#4, 0x1007#32)] [(0x1000#32, 0x11223344#32), (0x1004#32,
        0x8899AABB#32)]) (fun t =>
      t.reg 0#4 == 0xFFFFFF88#32 && t.reg 1#4 == 0x1008#32) = true := by decide
/-- R255: LDRSB R0, [R1, R2]. -/
theorem test_hand_ldrsbReg :
    steps 0xE19100D2 (machine 0x8000#32 0x000000D3#32 [(1#4, 0x1000#32), (2#4, 0x6#32)] [(0x1000#32, 0x11223344#32),
        (0x1004#32, 0x8899AABB#32)]) (fun t =>
      t.reg 0#4 == 0xFFFFFF99#32 && t.reg 1#4 == 0x1000#32) = true := by decide
/-- R255: LDRSB R0, [R1], R2. -/
theorem test_hand_ldrsbRegPost :
    steps 0xE09100D2 (machine 0x8000#32 0x000000D3#32 [(1#4, 0x1003#32), (2#4, 0x6#32)] [(0x1000#32, 0x11223344#32),
        (0x1004#32, 0x8899AABB#32)]) (fun t =>
      t.reg 0#4 == 0x11#32 && t.reg 1#4 == 0x1009#32) = true := by decide
/-- R257: LDRSH R0, [R1, R2]!. -/
theorem test_hand_ldrshReg :
    steps 0xE1B100F2 (machine 0x8000#32 0x000000D3#32 [(1#4, 0x1000#32), (2#4, 0x6#32)] [(0x1000#32, 0x11223344#32),
        (0x1004#32, 0x8899AABB#32)]) (fun t =>
      t.reg 0#4 == 0xFFFF8899#32 && t.reg 1#4 == 0x1006#32) = true := by decide
/-- R257: LDRSH R0, [R1], -R2. -/
theorem test_hand_ldrshRegPost :
    steps 0xE01100F2 (machine 0x8000#32 0x000000D3#32 [(1#4, 0x1002#32), (2#4, 0x6#32)] [(0x1000#32, 0x11223344#32),
        (0x1004#32, 0x8899AABB#32)]) (fun t =>
      t.reg 0#4 == 0x1122#32 && t.reg 1#4 == 0xFFC#32) = true := by decide
/-- R262: STRH R0, [R1], #-2. -/
theorem test_hand_strhImmPost :
    steps 0xE04100B2 (machine 0x8000#32 0x000000D3#32 [(0#4, 0x11223344#32), (1#4, 0x2002#32)] [(0x2000#32,
        0xAAAAAAAA#32)]) (fun t =>
      t.mem.load .word 0x2000#32 == 0x3344AAAA#32 && t.reg 1#4 == 0x2000#32) = true := by decide
/-- R262: STRH R0, [R1, R2]. -/
theorem test_hand_strhReg :
    steps 0xE18100B2 (machine 0x8000#32 0x000000D3#32 [(0#4, 0x11223344#32), (1#4, 0x1000#32), (2#4, 0x1000#32)]
        [(0x2000#32, 0xAAAAAAAA#32)]) (fun t =>
      t.mem.load .word 0x2000#32 == 0xAAAA3344#32 && t.reg 1#4 == 0x1000#32) = true := by decide
/-- R262: STRH R0, [R1], R2. -/
theorem test_hand_strhRegPost :
    steps 0xE08100B2 (machine 0x8000#32 0x000000D3#32 [(0#4, 0x11223344#32), (1#4, 0x2000#32), (2#4, 0x10#32)]
        [(0x2000#32, 0xAAAAAAAA#32)]) (fun t =>
      t.mem.load .word 0x2000#32 == 0xAAAA3344#32 && t.reg 1#4 == 0x2010#32) = true := by decide
/-- R251: LDRT R0, [R1], R2, LSL #2 with R2 = 1. -/
theorem test_hand_ldrtReg :
    steps 0xE6B10102 (machine 0x8000#32 0x000000D3#32 [(1#4, 0x1004#32), (2#4, 0x1#32)] [(0x1000#32, 0x11223344#32),
        (0x1004#32, 0x8899AABB#32)]) (fun t =>
      t.reg 0#4 == 0x8899AABB#32 && t.reg 1#4 == 0x1008#32) = true := by decide
/-- R254: LDRBT R0, [R1], R2, LSL #2 with R2 = 1. -/
theorem test_hand_ldrbtReg :
    steps 0xE6F10102 (machine 0x8000#32 0x000000D3#32 [(1#4, 0x1004#32), (2#4, 0x1#32)] [(0x1000#32, 0x11223344#32),
        (0x1004#32, 0x8899AABB#32)]) (fun t =>
      t.reg 0#4 == 0xBB#32 && t.reg 1#4 == 0x1008#32) = true := by decide
/-- R259: STRT R0, [R1], -R2, LSL #2 with R2 = 1. -/
theorem test_hand_strtReg :
    steps 0xE6210102 (machine 0x8000#32 0x000000D3#32 [(0#4, 0x11223344#32), (1#4, 0x2000#32), (2#4, 0x1#32)]
        [(0x2000#32, 0xAAAAAAAA#32)]) (fun t =>
      t.mem.load .word 0x2000#32 == 0x11223344#32 && t.reg 1#4 == 0x1FFC#32) = true := by decide
/-- R261: STRBT R0, [R1], -R2, LSL #2 with R2 = 1. -/
theorem test_hand_strbtReg :
    steps 0xE6610102 (machine 0x8000#32 0x000000D3#32 [(0#4, 0x11223344#32), (1#4, 0x2000#32), (2#4, 0x1#32)]
        [(0x2000#32, 0xAAAAAAAA#32)]) (fun t =>
      t.mem.load .word 0x2000#32 == 0xAAAAAA44#32 && t.reg 1#4 == 0x1FFC#32) = true := by decide
/-- R252: LDR R15, [R1, R2]!, loading 0x9001. -/
theorem test_hand_ldrPcReg :
    steps 0xE7B1F002 (machine 0x8000#32 0x000000D3#32 [(1#4, 0x1000#32), (2#4, 0x4#32)] [(0x1004#32, 0x9001#32)]) (fun
        t =>
      t.pc == 0x9000#32 && t.cpsr == 0x000000F3#32 && t.reg 1#4 == 0x1004#32) = true := by decide
/-- R253: LDRB R0, [R1, R2, LSL #1]. -/
theorem test_hand_ldrbReg :
    steps 0xE7D10082 (machine 0x8000#32 0x000000D3#32 [(1#4, 0x1000#32), (2#4, 0x3#32)] [(0x1000#32, 0x11223344#32),
        (0x1004#32, 0x8899AABB#32)]) (fun t =>
      t.reg 0#4 == 0x99#32 && t.reg 1#4 == 0x1000#32) = true := by decide
/-- R258: STR R0, [R1, -R2]!. -/
theorem test_hand_strReg :
    steps 0xE7210002 (machine 0x8000#32 0x000000D3#32 [(0#4, 0x11223344#32), (1#4, 0x2004#32), (2#4, 0x4#32)]
        [(0x2000#32, 0xAAAAAAAA#32)]) (fun t =>
      t.mem.load .word 0x2000#32 == 0x11223344#32 && t.reg 1#4 == 0x2000#32) = true := by decide
/-- R260: STRB R0, [R1], R2. -/
theorem test_hand_strbReg :
    steps 0xE6C10002 (machine 0x8000#32 0x000000D3#32 [(0#4, 0x11223344#32), (1#4, 0x2001#32), (2#4, 0x4#32)]
        [(0x2000#32, 0xAAAAAAAA#32)]) (fun t =>
      t.mem.load .word 0x2000#32 == 0xAAAA44AA#32 && t.reg 1#4 == 0x2005#32) = true := by decide
/-- R150: MSR SPSR_f, #0xF0000000 in Supervisor mode. -/
theorem test_hand_msrSpsrImm :
    steps 0xE368F20F (machine 0x8000#32 0x000000D3#32 [] []) (fun t =>
      t.spsr.get .svc == some 0xF0000000#32 && t.cpsr == 0xD3#32) = true := by decide
/-- R319: no coprocessor is present, so the Undefined Instruction exception is taken. -/
theorem test_hand_ldc2Off :
    steps 0xFD110504 (machine 0x8000#32 0x60000010#32 [] []) (fun t =>
      t.pc == 0x4#32 && t.cpsr == 0x6000009B#32 && t.bankReg .und 14#4 == 0x8004#32 && t.spsr.get .und == some
          0x60000010#32) = true := by decide
/-- R319: no coprocessor is present, so the Undefined Instruction exception is taken. -/
theorem test_hand_ldc2Post :
    steps 0xFC310504 (machine 0x8000#32 0x60000010#32 [] []) (fun t =>
      t.pc == 0x4#32 && t.cpsr == 0x6000009B#32 && t.bankReg .und 14#4 == 0x8004#32 && t.spsr.get .und == some
          0x60000010#32) = true := by decide
/-- R319: no coprocessor is present, so the Undefined Instruction exception is taken. -/
theorem test_hand_ldc2Unidx :
    steps 0xFC910504 (machine 0x8000#32 0x60000010#32 [] []) (fun t =>
      t.pc == 0x4#32 && t.cpsr == 0x6000009B#32 && t.bankReg .und 14#4 == 0x8004#32 && t.spsr.get .und == some
          0x60000010#32) = true := by decide
/-- R321: no coprocessor is present, so the Undefined Instruction exception is taken. -/
theorem test_hand_stc2Off :
    steps 0xFD010504 (machine 0x8000#32 0x60000010#32 [] []) (fun t =>
      t.pc == 0x4#32 && t.cpsr == 0x6000009B#32 && t.bankReg .und 14#4 == 0x8004#32 && t.spsr.get .und == some
          0x60000010#32) = true := by decide
/-- R321: no coprocessor is present, so the Undefined Instruction exception is taken. -/
theorem test_hand_stc2Post :
    steps 0xFC210504 (machine 0x8000#32 0x60000010#32 [] []) (fun t =>
      t.pc == 0x4#32 && t.cpsr == 0x6000009B#32 && t.bankReg .und 14#4 == 0x8004#32 && t.spsr.get .und == some
          0x60000010#32) = true := by decide
/-- R321: no coprocessor is present, so the Undefined Instruction exception is taken. -/
theorem test_hand_stc2Unidx :
    steps 0xFC810504 (machine 0x8000#32 0x60000010#32 [] []) (fun t =>
      t.pc == 0x4#32 && t.cpsr == 0x6000009B#32 && t.bankReg .und 14#4 == 0x8004#32 && t.spsr.get .und == some
          0x60000010#32) = true := by decide
/-- R313: no coprocessor is present, so the Undefined Instruction exception is taken. -/
theorem test_hand_cdp2 :
    steps 0xFE010504 (machine 0x8000#32 0x60000010#32 [] []) (fun t =>
      t.pc == 0x4#32 && t.cpsr == 0x6000009B#32 && t.bankReg .und 14#4 == 0x8004#32 && t.spsr.get .und == some
          0x60000010#32) = true := by decide
/-- R315: no coprocessor is present, so the Undefined Instruction exception is taken. -/
theorem test_hand_mrc2 :
    steps 0xFE110514 (machine 0x8000#32 0x60000010#32 [] []) (fun t =>
      t.pc == 0x4#32 && t.cpsr == 0x6000009B#32 && t.bankReg .und 14#4 == 0x8004#32 && t.spsr.get .und == some
          0x60000010#32) = true := by decide
/-- R317: no coprocessor is present, so the Undefined Instruction exception is taken. -/
theorem test_hand_mcr2 :
    steps 0xFE010514 (machine 0x8000#32 0x60000010#32 [] []) (fun t =>
      t.pc == 0x4#32 && t.cpsr == 0x6000009B#32 && t.bankReg .und 14#4 == 0x8004#32 && t.spsr.get .und == some
          0x60000010#32) = true := by decide
/-- R318: no coprocessor is present, so the Undefined Instruction exception is taken. -/
theorem test_hand_ldcPost :
    steps 0xEC310504 (machine 0x8000#32 0x60000010#32 [] []) (fun t =>
      t.pc == 0x4#32 && t.cpsr == 0x6000009B#32 && t.bankReg .und 14#4 == 0x8004#32 && t.spsr.get .und == some
          0x60000010#32) = true := by decide
/-- R318: no coprocessor is present, so the Undefined Instruction exception is taken. -/
theorem test_hand_ldcUnidx :
    steps 0xEC910504 (machine 0x8000#32 0x60000010#32 [] []) (fun t =>
      t.pc == 0x4#32 && t.cpsr == 0x6000009B#32 && t.bankReg .und 14#4 == 0x8004#32 && t.spsr.get .und == some
          0x60000010#32) = true := by decide
/-- R320: no coprocessor is present, so the Undefined Instruction exception is taken. -/
theorem test_hand_stcOff :
    steps 0xED010504 (machine 0x8000#32 0x60000010#32 [] []) (fun t =>
      t.pc == 0x4#32 && t.cpsr == 0x6000009B#32 && t.bankReg .und 14#4 == 0x8004#32 && t.spsr.get .und == some
          0x60000010#32) = true := by decide
/-- R320: no coprocessor is present, so the Undefined Instruction exception is taken. -/
theorem test_hand_stcPost :
    steps 0xEC210504 (machine 0x8000#32 0x60000010#32 [] []) (fun t =>
      t.pc == 0x4#32 && t.cpsr == 0x6000009B#32 && t.bankReg .und 14#4 == 0x8004#32 && t.spsr.get .und == some
          0x60000010#32) = true := by decide
/-- R320: no coprocessor is present, so the Undefined Instruction exception is taken. -/
theorem test_hand_stcUnidx :
    steps 0xEC810504 (machine 0x8000#32 0x60000010#32 [] []) (fun t =>
      t.pc == 0x4#32 && t.cpsr == 0x6000009B#32 && t.bankReg .und 14#4 == 0x8004#32 && t.spsr.get .und == some
          0x60000010#32) = true := by decide
/-- R316: no coprocessor is present, so the Undefined Instruction exception is taken. -/
theorem test_hand_mcr :
    steps 0xEE010514 (machine 0x8000#32 0x60000010#32 [] []) (fun t =>
      t.pc == 0x4#32 && t.cpsr == 0x6000009B#32 && t.bankReg .und 14#4 == 0x8004#32 && t.spsr.get .und == some
          0x60000010#32) = true := by decide

/-! ## Witnesses: a state and operands that meet all hypotheses of an obligation, for each of its clauses

The numerals are at the ends of their ranges where a clause has a range. -/

/-- Supervisor mode, with R1 a word address. -/
def sup : State := machine 0x8000#32 0x000000D3#32 [(0#4, 5#32), (1#4, 0x1000#32), (2#4, 0xFFFFFF80#32), (3#4, 3#32)] []

/-- USER mode. -/
def usr : State := machine 0x8000#32 0x00000010#32 [(0#4, 5#32), (1#4, 0x1000#32), (2#4, 0x80000000#32)] []

/-- IRQ mode. -/
def irq : State := machine 0x8000#32 0x00000092#32 [(0#4, 5#32), (1#4, 0x1000#32)] []

/-- IRQ mode right after a user-register transfer. -/
def irqAfter : State := { irq with userXfer := true }

/-- Supervisor mode at a NOP. -/
def atNop : State := machine 0x8000#32 0x000000D3#32 [] [(0x8000#32, 0xE1A00000#32)]

/-- Supervisor mode with interrupts enabled and the two lines given. -/
def lined (cpsr : Word) (i f : Bool) : State := { machine 0x8000#32 cpsr [] [] with lines := [⟨i, f⟩] }

/-- Supervisor mode with a saved status: USER mode in ARM state. -/
def supSaved (saved : Word) : State := { sup with spsr := State.reset.spsr.set .svc saved }

theorem test_witness_StepKeepsInvariant : usr.Inv ∧ ∃ t, step usr = .next t :=
  ⟨⟨by decide, by decide, by decide, by decide, by decide, by decide, by decide, by decide, by decide, by decide,
    by decide⟩, _, rfl⟩

theorem test_witness_StepRunsDecodedInstruction :
    atNop.interrupt = none ∧ Psr.t atNop.cpsr = false ∧ atNop.abortsAt .word atNop.pc .fetch atNop.privileged = false
      ∧ atNop.inMap .word atNop.pc = true ∧ (∀ a ∈ accessBytes .word atNop.pc, atNop.written.has a = false)
      ∧ decode (atNop.mem.load .word atNop.pc) = .ok .nop :=
  ⟨by decide, by decide, by decide, by decide, by decide, rfl⟩

theorem test_witness_InterruptsAtInstructionBoundary_fiq :
    (lined 0x13#32 true true).lines = [⟨true, true⟩] ∧ Psr.f (lined 0x13#32 true true).cpsr = false := by decide
theorem test_witness_InterruptsAtInstructionBoundary_irq :
    (lined 0x53#32 true true).lines = [⟨true, true⟩] ∧ Psr.i (lined 0x53#32 true true).cpsr = false
      ∧ Psr.f (lined 0x53#32 true true).cpsr = true := by decide
theorem test_witness_InterruptsAtInstructionBoundary_none :
    (lined 0xD3#32 true true).lines = [⟨true, true⟩] ∧ Psr.i (lined 0xD3#32 true true).cpsr = true
      ∧ Psr.f (lined 0xD3#32 true true).cpsr = true := by decide

theorem test_witness_FetchFailuresByName_thumb :
    (machine 0x8000#32 0xF3#32 [] []).interrupt = none ∧ Psr.t (machine 0x8000#32 0xF3#32 [] []).cpsr = true := by
        decide
/-- Supervisor mode with other platform parameters. -/
def platform (map : List AddrRange) (rules : List AbortRule) (w : AddrSet) : State :=
  { machine 0x8000#32 0xD3#32 [(0#4, 5#32), (1#4, 0x1000#32)] [(0x8000#32, 0xF1A00000#32)] with
    memMap := map, aborts := rules, written := w }
theorem test_witness_FetchFailuresByName_abort :
    let s := platform [⟨0, 0xFFFFFFFF⟩] [⟨0x8000, 0x8000, .word, .fetch, true⟩] []
    s.interrupt = none ∧ Psr.t s.cpsr = false ∧ s.abortsAt .word s.pc .fetch s.privileged = true := by decide
theorem test_witness_FetchFailuresByName_map :
    let s := platform [⟨0, 0x8002⟩] [] []
    s.interrupt = none ∧ Psr.t s.cpsr = false ∧ s.abortsAt .word s.pc .fetch s.privileged = false
      ∧ s.inMap .word s.pc = false := by decide
theorem test_witness_FetchFailuresByName_written :
    let s := platform [⟨0, 0xFFFFFFFF⟩] [] [0x8000, 0x8001, 0x8002, 0x8003]
    s.interrupt = none ∧ Psr.t s.cpsr = false ∧ s.abortsAt .word s.pc .fetch s.privileged = false
      ∧ s.inMap .word s.pc = true ∧ ∀ a ∈ accessBytes .word s.pc, s.written.has a = true := by decide
theorem test_witness_FetchFailuresByName_undecodable :
    let s := platform [⟨0, 0xFFFFFFFF⟩] [] []
    s.interrupt = none ∧ Psr.t s.cpsr = false ∧ s.abortsAt .word s.pc .fetch s.privileged = false
      ∧ s.inMap .word s.pc = true ∧ (∀ a ∈ accessBytes .word s.pc, s.written.has a = false)
      ∧ ∃ e, decode (s.mem.load .word s.pc) = .error e :=
  ⟨by decide, by decide, by decide, by decide, by decide, _, rfl⟩

theorem test_witness_DecodeOfEncode : (Instr.stm .al .db true 13#4 0x4030#16).wf = true := by decide
theorem test_witness_EncodeOfDecode : decode 0xE92D4030#32 = .ok (.stm .al .db true 13#4 0x4030#16) := rfl

theorem test_witness_BankedRegisterTable :
    Psr.legalMode 0b10001#5 = true ∧ Psr.legalMode 0b10000#5 = true ∧ (8#4 : Reg) ≠ 15#4 ∧ (14#4 : Reg) ≠ 15#4 := by
  decide

theorem test_witness_ReturnUndoesEntry :
    Psr.legalMode (Psr.mode usr.cpsr) = true ∧ Psr.t usr.cpsr = false ∧ wordAligned usr.pc = true := by decide

theorem test_witness_ShiftRightByImmediate_zero : 32 = (if 0#5 = 0#5 then 32 else (0#5).toNat) := by decide
theorem test_witness_ShiftRightByImmediate_most :
    31 = (if 31#5 = 0#5 then 32 else (31#5).toNat) ∧ 31#5 ≠ 0#5 := by decide
theorem test_witness_ShiftByRegister_zero :
    0 = ((machine 0#32 0xD3#32 [(3#4, 0x100#32)] []).reg 3#4).toNat % 256 := by decide
theorem test_witness_ShiftByRegister_most :
    255 = ((machine 0#32 0xD3#32 [(3#4, 0x1FF#32)] []).reg 3#4).toNat % 256 ∧ 255 ≠ 0 := by decide

theorem test_witness_PcInOperandTwo_result :
    sup.starts .al (DpName.named (.arithmetic .add) 1#4 0#4 (.reg 15#4 .lsl 2#4)) = true
      ∧ 15#4 ∈ DpName.named (.arithmetic .add) 1#4 0#4 (.reg 15#4 .lsl 2#4) := by decide
theorem test_witness_PcInOperandTwo_compare : sup.starts .al [1#4, 3#4, 15#4] = true ∧ 15#4 ∈ [1#4, 3#4, 15#4] := by
  decide

theorem test_witness_LogicalResults :
    sup.runs .al (LogicalName.named .and 1#4 0#4 (.reg 3#4 .lsl 2#4)) = true
      ∧ namesPc (LogicalName.named .and 1#4 0#4 (.reg 3#4 .lsl 2#4)) (.reg 3#4 .lsl 2#4) = false
      ∧ (0#4 : Reg) ≠ 15#4 := by decide
theorem test_witness_ArithmeticResults :
    sup.runs .al (0#4 :: 1#4 :: operand2Regs (.imm 0#4 0xFF#8)) = true
      ∧ namesPc (0#4 :: 1#4 :: operand2Regs (.imm 0#4 0xFF#8)) (.imm 0#4 0xFF#8) = false ∧ (0#4 : Reg) ≠ 15#4
      ∧ 0x1000#32 = sup.reg 1#4 ∧ 0xFF#32 = (operand2Eval (.imm 0#4 0xFF#8) sup).1 ∧ false = Psr.c sup.cpsr
      ∧ 0xF01#32 = BitVec.ofInt 32
          (ArithmeticName.exact .sub (0x1000#32 : Word).toInt (0xFF#32 : Word).toInt false) := by decide
theorem test_witness_TestAndCompareFlags :
    sup.runs .al (1#4 :: operand2Regs (.shift 4#5 .lsr 2#4)) = true
      ∧ namesPc (1#4 :: operand2Regs (.shift 4#5 .lsr 2#4)) (.shift 4#5 .lsr 2#4) = false ∧ 0x1000#32 = sup.reg 1#4
      ∧ ((0x0FFFFFF8#32, false) : Word × Bool) = operand2Eval (.shift 4#5 .lsr 2#4) sup := by decide
theorem test_witness_ConditionsAfterCompare :
    0x1000#32 = sup.reg 1#4 ∧ 5#32 = (operand2Eval (.imm 0#4 5#8) sup).1 ∧ condHolds .al sup.cpsr = true
      ∧ ∃ t, exec (CompareName.cmp.instr .al 1#4 (.imm 0#4 5#8)) sup = .next t :=
  ⟨by decide, by decide, by decide, _, rfl⟩

theorem test_witness_DataProcessingToPcBranches :
    sup.starts .al (DpName.named (.logical .mov) 0#4 15#4 (.shift 0#5 .lsl 1#4)) = true
      ∧ operand2IsRegShift (.shift 0#5 .lsl 1#4) = false
      ∧ (DpName.result (.logical .mov) 0#4 (.shift 0#5 .lsl 1#4) sup).toNat % 4 = 0
      ∧ (DpName.result (.logical .mov) 0#4 (.shift 0#5 .lsl 3#4) sup).toNat % 4 ≠ 0 := by decide
theorem test_witness_DataProcessingReturns_noSpsr :
    usr.starts .al (DpName.named (.logical .mov) 0#4 15#4 (.shift 0#5 .lsl 1#4)) = true
      ∧ operand2IsRegShift (.shift 0#5 .lsl 1#4) = false ∧ usr.spsr.get usr.bank = none := by decide
theorem test_witness_DataProcessingReturns_illegalMode :
    (supSaved 0x00#32).starts .al (DpName.named (.logical .mov) 0#4 15#4 (.shift 0#5 .lsl 1#4)) = true
      ∧ (supSaved 0x00#32).spsr.get (supSaved 0x00#32).bank = some 0x00#32
      ∧ Psr.legalMode (Psr.mode 0x00#32) = false := by decide
theorem test_witness_DataProcessingReturns_arm :
    (supSaved 0x10#32).spsr.get (supSaved 0x10#32).bank = some 0x10#32 ∧ Psr.legalMode (Psr.mode 0x10#32) = true
      ∧ (0x10#32 : Word).getLsbD 5 = false
      ∧ (DpName.result (.logical .mov) 0#4 (.shift 0#5 .lsl 1#4) (supSaved 0x10#32)).toNat % 4 = 0
      ∧ (DpName.result (.logical .mov) 0#4 (.shift 0#5 .lsl 3#4) (supSaved 0x10#32)).toNat % 4 ≠ 0
      ∧ (supSaved 0x10#32).starts .al (DpName.named (.logical .mov) 0#4 15#4 (.shift 0#5 .lsl 1#4)) = true
      ∧ (supSaved 0x10#32).starts .al (DpName.named (.logical .mov) 0#4 15#4 (.shift 0#5 .lsl 3#4)) = true := by decide
theorem test_witness_DataProcessingReturns_thumb :
    (supSaved 0x30#32).starts .al (DpName.named (.logical .mov) 0#4 15#4 (.shift 0#5 .lsl 3#4)) = true
      ∧ (supSaved 0x30#32).spsr.get (supSaved 0x30#32).bank = some 0x30#32 ∧ Psr.legalMode (Psr.mode 0x30#32) = true
      ∧ (0x30#32 : Word).getLsbD 5 = true := by decide

theorem test_witness_FailedConditionOnlyAdvances :
    Instr.condition (.b .eq 0#24) = some .eq ∧ condHolds .eq sup.cpsr = false ∧ sup.pc.toNat + 4 < 2 ^ 32
      ∧ condHolds .eq (machine 0xFFFFFFFC#32 0xD3#32 [] []).cpsr = false
      ∧ ¬ (machine 0xFFFFFFFC#32 0xD3#32 [] []).pc.toNat + 4 < 2 ^ 32 := by decide
theorem test_witness_NopOnlyAdvances : (machine 0xFFFFFFF8#32 0xD3#32 [] []).hasNext = true := by decide

theorem test_witness_SaturatingResults :
    usr.runs .al [1#4, 0#4, 2#4] = true ∧ (1#4 : Reg) ≠ 15#4 ∧ (0#4 : Reg) ≠ 15#4 ∧ (2#4 : Reg) ≠ 15#4
      ∧ -(2 ^ 31) = (usr.reg 2#4).toInt ∧ 0x1000 = (usr.reg 1#4).toInt ∧ 0x2000 = clamp (2 * 0x1000) := by decide
theorem test_witness_MultiplyResults :
    sup.runs .al [0#4, 1#4, 3#4, 2#4] = true ∧ (0#4 : Reg) ≠ 15#4 ∧ (1#4 : Reg) ≠ 15#4 ∧ (3#4 : Reg) ≠ 15#4
      ∧ (2#4 : Reg) ≠ 15#4 ∧ (0#4 : Reg) ≠ 2#4 ∧ 0xFFFFFE80#32 = sup.reg 2#4 * sup.reg 3#4
      ∧ 0x00000E80#32 = sup.reg 2#4 * sup.reg 3#4 + sup.reg 1#4 := by decide
theorem test_witness_LongMultiplyResults :
    sup.runs .al [0#4, 1#4, 3#4, 2#4] = true ∧ (0#4 : Reg) ≠ 15#4 ∧ (1#4 : Reg) ≠ 15#4 ∧ (3#4 : Reg) ≠ 15#4
      ∧ (2#4 : Reg) ≠ 15#4 ∧ (0#4 : Reg) ≠ 1#4 ∧ 0x0000000500001000#64 = sup.reg 0#4 ++ sup.reg 1#4
      ∧ (0#4 : Reg) ≠ 2#4 ∧ (1#4 : Reg) ≠ 2#4
      ∧ 0x00000002FFFFFE80#64 = (sup.reg 2#4).setWidth 64 * (sup.reg 3#4).setWidth 64
      ∧ 0xFFFFFFFFFFFFFE80#64 = (sup.reg 2#4).signExtend 64 * (sup.reg 3#4).signExtend 64 := by decide
theorem test_witness_HalfMultiplyResults :
    sup.runs .al [0#4, 1#4, 3#4, 2#4] = true ∧ (0#4 : Reg) ≠ 15#4 ∧ (1#4 : Reg) ≠ 15#4 ∧ (3#4 : Reg) ≠ 15#4
      ∧ (2#4 : Reg) ≠ 15#4
      ∧ 0xFFFFFE80#32 = (halfOf (sup.reg 2#4) false).signExtend 32 * (halfOf (sup.reg 3#4) false).signExtend 32
      ∧ 0xFFFFFFFF#32
        = ((sup.reg 2#4).signExtend 48 * (halfOf (sup.reg 3#4) false).signExtend 48).extractLsb' 16 32 := by decide
theorem test_witness_CountLeadingZeros :
    sup.runs .al [0#4, 1#4] = true ∧ (0#4 : Reg) ≠ 15#4 ∧ (1#4 : Reg) ≠ 15#4 := by decide
theorem test_witness_RegisterRestrictionsRefused_pc :
    Instr.forbidsPc (.mul .al false 15#4 1#4 2#4) = true ∧ Instr.condition (.mul .al false 15#4 1#4 2#4) = some .al
      ∧ sup.starts .al (Instr.named (.mul .al false 15#4 1#4 2#4)) = true
      ∧ 15#4 ∈ Instr.named (.mul .al false 15#4 1#4 2#4) := by decide
theorem test_witness_RegisterRestrictionsRefused_same :
    Instr.forbidsPc (.swp .al 1#4 1#4 2#4) = true ∧ Instr.condition (.swp .al 1#4 1#4 2#4) = some .al
      ∧ sup.starts .al (Instr.named (.swp .al 1#4 1#4 2#4)) = true ∧ 15#4 ∉ Instr.named (.swp .al 1#4 1#4 2#4)
      ∧ Instr.clashes (.swp .al 1#4 1#4 2#4) = true := by decide

theorem test_witness_MrsResults :
    sup.runs .al [14#4] = true ∧ (14#4 : Reg) ≠ 15#4 ∧ sup.spsr.get sup.bank = some 0#32
      ∧ usr.runs .al [14#4] = true ∧ usr.spsr.get usr.bank = none := by decide
theorem reservedFree_of {fields : BitVec 4} {v : Word}
    (h : ∀ i, i < 27 → 8 ≤ i → fields.getLsbD (i / 8) = true → v.getLsbD i = false) : msrReservedFree fields v :=
  fun i a b => h i b a
/-- Supervisor mode with an MSR operand in R1. -/
def forMsr (v : Word) : State := machine 0x8000#32 0xD3#32 [(1#4, v)] []
theorem test_witness_MsrCpsrResults :
    (forMsr 0xF80000DF#32).runs .al (MsrOperand.reg 1#4).named = true ∧ 15#4 ∉ (MsrOperand.reg 1#4).named
      ∧ 15#4 ≠ 0#4 ∧ msrReservedFree 15#4 ((MsrOperand.reg 1#4).value (forMsr 0xF80000DF#32))
      ∧ (forMsr 0xF80000DF#32).privileged = true
      ∧ ((MsrOperand.reg 1#4).value (forMsr 0xF80000DF#32)).getLsbD 5 = false
      ∧ Merges 0xF80000DF#32 (forMsr 0xF80000DF#32).cpsr ((MsrOperand.reg 1#4).value (forMsr 0xF80000DF#32))
        (msrWritesCpsr (forMsr 0xF80000DF#32) 15#4)
      ∧ Psr.legalMode (Psr.mode 0xF80000DF#32) = true :=
  ⟨by decide, by decide, by decide, reservedFree_of (by decide), by decide, by decide, by unfold Merges; decide,
    by decide⟩
theorem test_witness_MsrSpsrResults :
    (forMsr 0xF80000FF#32).runs .al (MsrOperand.reg 1#4).named = true ∧ 15#4 ∉ (MsrOperand.reg 1#4).named
      ∧ 15#4 ≠ 0#4 ∧ msrReservedFree 15#4 ((MsrOperand.reg 1#4).value (forMsr 0xF80000FF#32))
      ∧ (forMsr 0xF80000FF#32).spsr.get (forMsr 0xF80000FF#32).bank = some 0#32
      ∧ Merges 0xF80000FF#32 0#32 ((MsrOperand.reg 1#4).value (forMsr 0xF80000FF#32)) (msrWritesSpsr 15#4) :=
  ⟨by decide, by decide, by decide, reservedFree_of (by decide), by decide, by unfold Merges; decide⟩
theorem test_witness_MsrRefusals_pc :
    sup.starts .al (MsrOperand.reg 15#4).named = true ∧ 15#4 ∈ (MsrOperand.reg 15#4).named := by decide
theorem test_witness_MsrRefusals_noField :
    sup.starts .al (MsrOperand.imm 0#4 0#8).named = true ∧ 15#4 ∉ (MsrOperand.imm 0#4 0#8).named ∧ 0#4 = 0#4 := by
        decide
theorem test_witness_MsrRefusals_reserved :
    (forMsr 0x04000000#32).starts .al (MsrOperand.reg 1#4).named = true ∧ 15#4 ∉ (MsrOperand.reg 1#4).named ∧ 8#4 ≠ 0#4
      ∧ ¬ msrReservedFree 8#4 ((MsrOperand.reg 1#4).value (forMsr 0x04000000#32)) :=
  ⟨by decide, by decide, by decide, fun h => absurd (h 26 (by decide) (by decide) (by decide)) (by decide)⟩
theorem test_witness_MsrRefusals_setsT :
    (forMsr 0x33#32).starts .al (MsrOperand.reg 1#4).named = true ∧ 15#4 ∉ (MsrOperand.reg 1#4).named ∧ 1#4 ≠ 0#4
      ∧ msrReservedFree 1#4 ((MsrOperand.reg 1#4).value (forMsr 0x33#32)) ∧ (forMsr 0x33#32).privileged = true
      ∧ (1#4 : BitVec 4).getLsbD 0 = true ∧ ((MsrOperand.reg 1#4).value (forMsr 0x33#32)).getLsbD 5 = true :=
  ⟨by decide, by decide, by decide, reservedFree_of (by decide), by decide, by decide, by decide⟩
theorem test_witness_MsrRefusals_illegalMode :
    (forMsr 0x00#32).starts .al (MsrOperand.reg 1#4).named = true ∧ 15#4 ∉ (MsrOperand.reg 1#4).named ∧ 1#4 ≠ 0#4
      ∧ msrReservedFree 1#4 ((MsrOperand.reg 1#4).value (forMsr 0x00#32))
      ∧ ((MsrOperand.reg 1#4).value (forMsr 0x00#32)).getLsbD 5 = false
      ∧ Merges 0x00#32 (forMsr 0x00#32).cpsr ((MsrOperand.reg 1#4).value (forMsr 0x00#32))
        (msrWritesCpsr (forMsr 0x00#32) 1#4)
      ∧ Psr.legalMode (Psr.mode 0x00#32) = false :=
  ⟨by decide, by decide, by decide, reservedFree_of (by decide), by decide, by unfold Merges; decide, by decide⟩
theorem test_witness_MsrRefusals_noSpsr :
    usr.starts .al (MsrOperand.imm 0#4 0#8).named = true ∧ 15#4 ∉ (MsrOperand.imm 0#4 0#8).named ∧ 1#4 ≠ 0#4
      ∧ msrReservedFree 1#4 ((MsrOperand.imm 0#4 0#8).value usr) ∧ usr.spsr.get usr.bank = none :=
  ⟨by decide, by decide, by decide, reservedFree_of (by decide), by decide⟩

theorem test_witness_BranchResults :
    wordAligned sup.pc = true ∧ 0xFE008008#32 = sup.pc + 8#32 + BitVec.ofInt 32 (4 * (0x800000#24 : BitVec 24).toInt)
      ∧ sup.starts .al [] = true ∧ sup.starts .al [14#4] = true := by decide
theorem test_witness_BranchExchangeResults_arm :
    0x1000#32 = sup.reg 1#4 ∧ sup.starts .al [1#4] = true ∧ sup.starts .al [1#4, 14#4] = true ∧ (1#4 : Reg) ≠ 15#4
      ∧ (0x1000#32 : Word).extractLsb' 0 2 ≠ 0b10#2 ∧ sup.mayName [14#4] = true := by decide
theorem test_witness_BranchExchangeResults_misaligned :
    2#32 = (machine 0#32 0xD3#32 [(1#4, 2#32)] []).reg 1#4
      ∧ (machine 0#32 0xD3#32 [(1#4, 2#32)] []).starts .al [1#4] = true
      ∧ (machine 0#32 0xD3#32 [(1#4, 2#32)] []).starts .al [1#4, 14#4] = true ∧ (1#4 : Reg) ≠ 15#4
      ∧ (2#32 : Word).extractLsb' 0 2 = 0b10#2 := by decide
theorem test_witness_BranchExchangeResults_pc :
    0x8008#32 = sup.reg 15#4 ∧ sup.starts .al [15#4] = true ∧ sup.starts .al [15#4, 14#4] = true := by decide

theorem test_witness_MemoryByteOrder_word : wordAligned 0xFFFFFFFC#32 = true := by decide
theorem test_witness_MemoryByteOrder_form : Memory.wf [(0xFFFFFFFF, 0xFF#8)] = true ∧ 0 ∉ accessBytes .word 4#32 := by
  decide
theorem test_witness_MemoryByteOrder_fetch : ∃ bytes, fetch sup = .ok bytes := ⟨_, rfl⟩

/-- LDRSB, post-indexed by a register. -/
def ldrsbPost : Transfer := ⟨.ldrsb, .al, .post, true, 1#4, 0#4, plainReg 3#4⟩
theorem test_witness_LoadResults :
    Instr.transfer (.ldrsbRegPost .al true 1#4 0#4 3#4) = some ldrsbPost ∧ ldrsbPost.op.isLoad = true
      ∧ ldrsbPost.op ≠ .ldrPc ∧ ldrsbPost.allowed = true ∧ sup.runs .al ldrsbPost.named = true
      ∧ true = (if ldrsbPost.op ∈ [.ldrt, .ldrbt] then false else sup.privileged)
      ∧ sup.canAccess .byte (ldrsbPost.address sup) .read true = true := by decide
/-- LDRT. -/
def ldrtPost : Transfer := ⟨.ldrt, .al, .post, true, 1#4, 0#4, .imm 4#32⟩
theorem test_witness_LoadResults_user :
    let s := platform [⟨0, 0xFFFFFFFF⟩] [⟨0x1000, 0x1000, .word, .read, true⟩] []
    Instr.transfer (.ldrtImm .al true 1#4 0#4 4#12) = some ldrtPost ∧ ldrtPost.op.isLoad = true
      ∧ ldrtPost.op ≠ .ldrPc ∧ ldrtPost.allowed = true ∧ s.runs .al ldrtPost.named = true ∧ s.privileged = true
      ∧ false = (if ldrtPost.op ∈ [.ldrt, .ldrbt] then false else s.privileged)
      ∧ s.canAccess .word (ldrtPost.address s) .read false = true := by decide
/-- LDR to R15, pre-indexed with writeback. -/
def toPc : Transfer := ⟨.ldrPc, .al, .pre, true, 1#4, 15#4, .imm 4#32⟩
theorem test_witness_LoadToPcResults :
    Instr.transfer (.ldrPcImm .al .pre true 1#4 4#12) = some toPc ∧ toPc.op = .ldrPc ∧ toPc.allowed = true
      ∧ sup.starts toPc.c toPc.named = true ∧ sup.canAccess .word (toPc.address sup) .read sup.privileged = true
      ∧ 0#32 = sup.mem.load .word (toPc.address sup) := by decide
/-- STR of R15 without writeback. -/
def ofPc : Transfer := ⟨.str, .al, .offset, true, 1#4, 15#4, .imm 4#32⟩
/-- STRH post-indexed. -/
def strhPost : Transfer := ⟨.strh, .al, .post, false, 1#4, 0#4, .imm 2#32⟩
theorem test_witness_StoreResults :
    Instr.transfer (.strhImmPost .al false 1#4 0#4 2#8) = some strhPost ∧ strhPost.op.isLoad = false
      ∧ strhPost.allowed = true ∧ sup.runs strhPost.c strhPost.named = true
      ∧ true = (if strhPost.op ∈ [.strt, .strbt] then false else sup.privileged)
      ∧ sup.canAccess .half (strhPost.address sup) .write true = true ∧ 5#32 = sup.reg strhPost.rd := by decide
theorem test_witness_StoreResults_pc :
    Instr.transfer (.strImm .al .offset true 1#4 15#4 4#12) = some ofPc ∧ ofPc.op.isLoad = false
      ∧ ofPc.allowed = true ∧ sup.runs ofPc.c ofPc.named = true
      ∧ sup.canAccess .word (ofPc.address sup) .write sup.privileged = true := by decide
/-- STRBT. -/
def strbtPost : Transfer := ⟨.strbt, .al, .post, true, 1#4, 0#4, .imm 4#32⟩
theorem test_witness_StoreResults_user :
    Instr.transfer (.strbtImm .al true 1#4 0#4 4#12) = some strbtPost ∧ strbtPost.op.isLoad = false
      ∧ strbtPost.allowed = true ∧ sup.runs .al strbtPost.named = true ∧ sup.privileged = true
      ∧ false = (if strbtPost.op ∈ [.strt, .strbt] then false else sup.privileged)
      ∧ sup.canAccess .byte (strbtPost.address sup) .write false = true := by decide
theorem test_witness_TransferRestrictionsRefused :
    Instr.transfer (.strImm .al .post true 15#4 0#4 4#12) = some ⟨.str, .al, .post, true, 15#4, 0#4, .imm 4#32⟩
      ∧ sup.starts .al (Transfer.named ⟨.str, .al, .post, true, 15#4, 0#4, .imm 4#32⟩) = true
      ∧ Transfer.allowed ⟨.str, .al, .post, true, 15#4, 0#4, .imm 4#32⟩ = false := by decide
/-- LDR with an offset. -/
def ldrAt (off : Word) : Transfer := ⟨.ldr, .al, .offset, true, 1#4, 0#4, .imm off⟩
theorem test_witness_TransferFailures_misaligned :
    Instr.transfer (.ldrImm .al .offset true 1#4 0#4 1#12) = some (ldrAt 1#32) ∧ (ldrAt 1#32).allowed = true
      ∧ sup.starts .al (ldrAt 1#32).named = true ∧ Size.aligned .word ((ldrAt 1#32).address sup) = false := by decide
theorem test_witness_TransferFailures_map :
    let s := platform [⟨0, 0x1002⟩] [] []
    Instr.transfer (.ldrImm .al .offset true 1#4 0#4 0#12) = some (ldrAt 0#32) ∧ (ldrAt 0#32).allowed = true
      ∧ s.starts .al (ldrAt 0#32).named = true ∧ Size.aligned .word ((ldrAt 0#32).address s) = true
      ∧ s.inMap .word ((ldrAt 0#32).address s) = false := by decide
theorem test_witness_TransferFailures_abort :
    let s := platform [⟨0, 0xFFFFFFFF⟩] [⟨0x1000, 0x1000, .word, .read, true⟩] []
    Instr.transfer (.ldrImm .al .offset true 1#4 0#4 0#12) = some (ldrAt 0#32) ∧ (ldrAt 0#32).allowed = true
      ∧ s.starts .al (ldrAt 0#32).named = true ∧ Size.aligned .word ((ldrAt 0#32).address s) = true
      ∧ s.inMap .word ((ldrAt 0#32).address s) = true
      ∧ true = (if (ldrAt 0#32).op ∈ [.ldrt, .ldrbt, .strt, .strbt] then false else s.privileged)
      ∧ s.abortsAt .word ((ldrAt 0#32).address s) .read true = true := by decide
theorem test_witness_TransferFailures_user :
    let s := platform [⟨0, 0xFFFFFFFF⟩] [⟨0x1000, 0x1000, .byte, .write, false⟩] []
    Instr.transfer (.strbtImm .al true 1#4 0#4 4#12) = some strbtPost ∧ strbtPost.allowed = true
      ∧ s.starts .al strbtPost.named = true ∧ s.privileged = true ∧ s.inMap .byte (strbtPost.address s) = true
      ∧ false = (if strbtPost.op ∈ [.ldrt, .ldrbt, .strt, .strbt] then false else s.privileged)
      ∧ s.abortsAt .byte (strbtPost.address s) .write false = true := by decide
/-- The hypotheses on state and operands that all clauses of `TransferFailures` about swaps share: R1 addresses. -/
def swapHyps (s : State) : Bool :=
  s.starts .al [1#4, 0#4, 2#4] && (1#4 : Reg) != 15#4 && (0#4 : Reg) != 15#4 && (2#4 : Reg) != 15#4
    && (1#4 : Reg) != 2#4 && (1#4 : Reg) != 0#4
theorem test_witness_TransferFailures_swapMisaligned :
    swapHyps (machine 0#32 0xD3#32 [(1#4, 2#32)] []) = true
      ∧ Size.aligned .word ((machine 0#32 0xD3#32 [(1#4, 2#32)] []).reg 1#4) = false := by decide
theorem test_witness_TransferFailures_swapMap :
    let s := platform [⟨0, 0xFFF⟩] [] []
    swapHyps s = true ∧ Size.aligned .byte (s.reg 1#4) = true ∧ s.inMap .byte (s.reg 1#4) = false
      ∧ Size.aligned .word (s.reg 1#4) = true ∧ s.inMap .word (s.reg 1#4) = false := by decide
theorem test_witness_TransferFailures_swapAbort :
    let s := platform [⟨0, 0xFFFFFFFF⟩] [⟨0x1000, 0x1000, .word, .write, true⟩] []
    swapHyps s = true ∧ Size.aligned .word (s.reg 1#4) = true ∧ s.inMap .word (s.reg 1#4) = true
      ∧ s.abortsAt .word (s.reg 1#4) .read s.privileged = false
      ∧ s.abortsAt .word (s.reg 1#4) .write s.privileged = true := by decide
/-- `LDMIA R1, {R0, R2, R15}^`, the exception return. -/
def popBlock : BlockTransfer := ⟨true, .al, .ia, false, 1#4, 0x8005#16, false, true⟩
/-- `STMDB R1, {R0, R13}^`, User-mode registers. -/
def pushUser : BlockTransfer := ⟨false, .al, .db, false, 1#4, 0x2001#16, true, false⟩
theorem test_witness_TransferFailures_blockMisaligned :
    let s := machine 0x8000#32 0xD3#32 [(1#4, 2#32)] []
    Instr.blockTransfer (.ldmPcRet .al .ia false 1#4 0x0005#15) = some popBlock
      ∧ s.starts .al (Instr.named (.ldmPcRet .al .ia false 1#4 0x0005#15)) = true ∧ popBlock.allowed s
      ∧ 0 < listCount popBlock.list ∧ s.canAccessWords .read (popBlock.start s) 0 = true
      ∧ wordAligned (popBlock.start s + blockBytes 0) = false :=
  ⟨by decide, by decide, by unfold BlockTransfer.allowed; decide, by decide, by decide, by decide⟩
theorem test_witness_TransferFailures_blockMap :
    let s := platform [⟨0, 0x0FFB⟩] [] []
    Instr.blockTransfer (.stmUser .al .db 1#4 0x2001#16) = some pushUser
      ∧ s.starts .al (Instr.named (.stmUser .al .db 1#4 0x2001#16)) = true ∧ pushUser.allowed s
      ∧ 1 < listCount pushUser.list ∧ s.canAccessWords .write (pushUser.start s) 1 = true
      ∧ wordAligned (pushUser.start s + blockBytes 1) = true
      ∧ s.inMap .word (pushUser.start s + blockBytes 1) = false :=
  ⟨by decide, by decide, by unfold BlockTransfer.allowed; decide, by decide, by decide, by decide, by decide⟩
theorem test_witness_TransferFailures_blockAbort :
    let s := platform [⟨0, 0xFFFFFFFF⟩] [⟨0x1008, 0x1008, .word, .read, true⟩] []
    Instr.blockTransfer (.ldmPcRet .al .ia false 1#4 0x0005#15) = some popBlock
      ∧ s.starts .al (Instr.named (.ldmPcRet .al .ia false 1#4 0x0005#15)) = true ∧ popBlock.allowed s
      ∧ 2 < listCount popBlock.list ∧ s.canAccessWords .read (popBlock.start s) 2 = true
      ∧ wordAligned (popBlock.start s + blockBytes 2) = true
      ∧ s.inMap .word (popBlock.start s + blockBytes 2) = true
      ∧ s.abortsAt .word (popBlock.start s + blockBytes 2) .read s.privileged = true :=
  ⟨by decide, by decide, by unfold BlockTransfer.allowed; decide, by decide, by decide, by decide, by decide,
    by decide⟩
theorem test_witness_TransferFailures_blockStoreAbort :
    let s := platform [⟨0, 0xFFFFFFFF⟩] [⟨0x0FFC, 0x0FFC, .word, .write, true⟩] []
    Instr.blockTransfer (.stmUser .al .db 1#4 0x2001#16) = some pushUser
      ∧ s.starts .al (Instr.named (.stmUser .al .db 1#4 0x2001#16)) = true ∧ pushUser.allowed s
      ∧ 1 < listCount pushUser.list ∧ s.canAccessWords .write (pushUser.start s) 1 = true
      ∧ wordAligned (pushUser.start s + blockBytes 1) = true
      ∧ s.inMap .word (pushUser.start s + blockBytes 1) = true
      ∧ s.abortsAt .word (pushUser.start s + blockBytes 1) .write s.privileged = true :=
  ⟨by decide, by decide, by unfold BlockTransfer.allowed; decide, by decide, by decide, by decide, by decide,
    by decide⟩

theorem test_witness_LdmResults :
    sup.runs .al (1#4 :: listRegs 0x4001#15) = true ∧ (1#4 : Reg) ≠ 15#4 ∧ 0x4001#15 ≠ 0#15
      ∧ (0x4001#15).getLsbD (1#4 : Reg).toNat = false ∧ 0x0FF8#32 = blockStart .db (sup.reg 1#4) (listCount 0x4001#15)
      ∧ sup.canAccessWords .read 0x0FF8#32 (listCount 0x4001#15) = true := by decide
/-- Supervisor mode with a word at 0x1004 and a saved status. -/
def forReturn (v saved : Word) : State :=
  { machine 0x8000#32 0xD3#32 [(1#4, 0x1000#32)] [(0x1004#32, v)] with spsr := State.reset.spsr.set .svc saved }
theorem test_witness_LdmPcResults :
    (forReturn 0x9001#32 0#32).starts .al (1#4 :: listRegs 0x4000#15) = true ∧ (1#4 : Reg) ≠ 15#4
      ∧ (0x4000#15).getLsbD (1#4 : Reg).toNat = false
      ∧ 0x1000#32 = blockStart .ia ((forReturn 0x9001#32 0#32).reg 1#4) (listCount 0x4000#15 + 1)
      ∧ (forReturn 0x9001#32 0#32).canAccessWords .read 0x1000#32 (listCount 0x4000#15 + 1) = true
      ∧ 0x9001#32 = (forReturn 0x9001#32 0#32).mem.load .word (0x1000#32 + blockBytes (listCount 0x4000#15))
      ∧ (0x9001#32 : Word).extractLsb' 0 2 ≠ 0b10#2 := by decide
theorem test_witness_LdmPcResults_misaligned :
    (forReturn 0x9002#32 0#32).starts .al (1#4 :: listRegs 0x4000#15) = true ∧ (1#4 : Reg) ≠ 15#4
      ∧ (0x4000#15).getLsbD (1#4 : Reg).toNat = false
      ∧ 0x1000#32 = blockStart .ia ((forReturn 0x9002#32 0#32).reg 1#4) (listCount 0x4000#15 + 1)
      ∧ (forReturn 0x9002#32 0#32).canAccessWords .read 0x1000#32 (listCount 0x4000#15 + 1) = true
      ∧ 0x9002#32 = (forReturn 0x9002#32 0#32).mem.load .word (0x1000#32 + blockBytes (listCount 0x4000#15))
      ∧ (0x9002#32 : Word).extractLsb' 0 2 = 0b10#2 := by decide
/-- The hypotheses that all clauses of `LdmReturnResults` share, at a loaded word and a saved status. -/
def returnHyps (v saved : Word) : Bool :=
  let s := forReturn v saved
  s.starts .al (1#4 :: listRegs 0x4000#15) && !(0x4000#15).getLsbD (1#4 : Reg).toNat
    && blockStart .ia (s.reg 1#4) (listCount 0x4000#15 + 1) == 0x1000#32
    && s.canAccessWords .read 0x1000#32 (listCount 0x4000#15 + 1)
    && s.mem.load .word (0x1000#32 + blockBytes (listCount 0x4000#15)) == v && s.spsr.get s.bank == some saved
theorem test_witness_LdmReturnResults_illegalMode :
    returnHyps 0x9000#32 0x00#32 = true ∧ Psr.legalMode (Psr.mode 0x00#32) = false := by decide
theorem test_witness_LdmReturnResults_misaligned :
    returnHyps 0x9002#32 0x10#32 = true ∧ Psr.legalMode (Psr.mode 0x10#32) = true ∧ (0x10#32 : Word).getLsbD 5 = false
      ∧ (0x9002#32 : Word).extractLsb' 0 2 ≠ 0b00#2 := by decide
theorem test_witness_LdmReturnResults_arm :
    returnHyps 0x9000#32 0x10#32 = true ∧ Psr.legalMode (Psr.mode 0x10#32) = true
      ∧ (0x9000#32 : Word).extractLsb' 0 2 = 0b00#2 := by decide
theorem test_witness_LdmReturnResults_thumb :
    returnHyps 0x9003#32 0x30#32 = true ∧ Psr.legalMode (Psr.mode 0x30#32) = true
      ∧ (0x30#32 : Word).getLsbD 5 = true := by decide
theorem test_witness_LdmUserResults :
    irq.runs .al (1#4 :: listRegs 0x6002#15) = true ∧ (1#4 : Reg) ≠ 15#4 ∧ 0x6002#15 ≠ 0#15 ∧ irq.bank ≠ .usr
      ∧ 0x0FF8#32 = blockStart .da (irq.reg 1#4) (listCount 0x6002#15)
      ∧ irq.canAccessWords .read 0x0FF8#32 (listCount 0x6002#15) = true := by decide
theorem test_witness_StmResults :
    irq.runs .al (1#4 :: listRegs 0xE002#16) = true ∧ (1#4 : Reg) ≠ 15#4 ∧ 0xE002#16 ≠ 0#16
      ∧ 0x1004#32 = blockStart .ib (irq.reg 1#4) (listCount 0xE002#16)
      ∧ irq.canAccessWords .write 0x1004#32 (listCount 0xE002#16) = true
      ∧ (0xE002#16).getLsbD (1#4 : Reg).toNat = true ∧ listRank 0xE002#16 1#4 = 0 ∧ irq.bank ≠ .usr := by decide
theorem test_witness_PopUndoesPush :
    (BlockMode.db, BlockMode.ia) ∈ [(BlockMode.ia, BlockMode.db), (.ib, .da), (.da, .ib), (.db, .ia)]
      ∧ sup.mayName (1#4 :: listRegs 0x4001#15) = true ∧ sup.pc.toNat + 8 < 2 ^ 32 ∧ (1#4 : Reg) ≠ 15#4
      ∧ 0x4001#15 ≠ 0#15 ∧ (0x4001#15).getLsbD (1#4 : Reg).toNat = false
      ∧ sup.canAccessWords .write (blockStart .db (sup.reg 1#4) (listCount 0x4001#15)) (listCount 0x4001#15) = true
      ∧ sup.canAccessWords .read (blockStart .db (sup.reg 1#4) (listCount 0x4001#15)) (listCount 0x4001#15) = true := by
  decide
theorem test_witness_BlockRestrictionsRefused_user :
    usr.starts .al (1#4 :: listRegs 1#15) = true ∧ usr.starts .al (1#4 :: listRegs 1#16) = true ∧ usr.bank = .usr := by
  decide
theorem test_witness_BlockRestrictionsRefused_pc :
    sup.starts .al (15#4 :: listRegs 1#15) = true ∧ sup.starts .al (15#4 :: listRegs 1#16) = true
      ∧ sup.bank ≠ .usr := by decide
theorem test_witness_BlockRestrictionsRefused_base :
    sup.starts .al (1#4 :: listRegs 2#15) = true ∧ sup.starts .al (1#4 :: listRegs 3#16) = true ∧ (1#4 : Reg) ≠ 15#4
      ∧ (2#15).getLsbD (1#4 : Reg).toNat = true ∧ (3#16).getLsbD (1#4 : Reg).toNat = true ∧ listRank 3#16 1#4 ≠ 0
      ∧ sup.bank ≠ .usr := by decide
theorem test_witness_BlockRestrictionsRefused_misaligned :
    sup.starts .al (3#4 :: listRegs 1#15) = true ∧ sup.starts .al (3#4 :: listRegs 1#16) = true ∧ (3#4 : Reg) ≠ 15#4
      ∧ (sup.reg 3#4).extractLsb' 0 2 ≠ 0b00#2 ∧ (1#15).getLsbD (3#4 : Reg).toNat = false ∧ 1#15 ≠ 0#15
      ∧ (1#16).getLsbD (3#4 : Reg).toNat = false ∧ 1#16 ≠ 0#16 ∧ sup.bank ≠ .usr := by decide
theorem test_witness_BlockRestrictionsRefused_misalignedFirst :
    sup.starts .al (3#4 :: listRegs 1#15) = true ∧ sup.starts .al (3#4 :: listRegs 0x8008#16) = true
      ∧ (3#4 : Reg) ≠ 15#4 ∧ (sup.reg 3#4).extractLsb' 0 2 ≠ 0b00#2
      ∧ (0x8008#16).getLsbD (3#4 : Reg).toNat = true ∧ listRank 0x8008#16 3#4 = 0 ∧ 0x8008#16 ≠ 0#16 := by decide

theorem test_witness_SwapResults :
    sup.runs .al [1#4, 0#4, 2#4] = true ∧ (1#4 : Reg) ≠ 15#4 ∧ (0#4 : Reg) ≠ 15#4 ∧ (2#4 : Reg) ≠ 15#4
      ∧ (1#4 : Reg) ≠ 2#4 ∧ (1#4 : Reg) ≠ 0#4 ∧ 0x1000#32 = sup.reg 1#4
      ∧ sup.canAccess .word 0x1000#32 .read sup.privileged = true
      ∧ sup.canAccess .word 0x1000#32 .write sup.privileged = true
      ∧ sup.canAccess .byte 0x1000#32 .read sup.privileged = true
      ∧ sup.canAccess .byte 0x1000#32 .write sup.privileged = true := by decide

theorem test_witness_CoprocessorOperationResults :
    sup.hasNext = true ∧ sup.starts .al [] = true ∧ sup.mayName [] = true ∧ sup.starts .al [15#4] = true
      ∧ sup.mayName [15#4] = true ∧ (14#4 : Reg) ≠ 15#4 ∧ sup.starts .al [14#4] = true := by decide
/-- Every block of 1 to 16 words that a coprocessor may ask for. -/
theorem succ_words {n : Fin 16} {p : Nat → Bool} (h : ∀ k : Fin 16, p (k.val + 1) = true) : p (n.val + 1) = true := h n
/-- LDC, post-indexed. -/
def ldcDown : CpTransfer := ⟨true, .post, false, 1#4, 4#32, 5#4⟩
/-- STC2 from R15, an offset form. -/
def stc2Pc : CpTransfer := ⟨false, .offset, true, 15#4, 0x3FC#32, 5#4⟩
theorem test_witness_CoprocessorTransferResults_load :
    Instr.cpTransfer (.ldcPost .al false true 1#4 3#4 5#4 1#8) = some ldcDown
      ∧ Instr.condition (.ldcPost .al false true 1#4 3#4 5#4 1#8) = some .al ∧ condHolds .al sup.cpsr = true
      ∧ sup.mayName [1#4] = true ∧ sup.hasNext = true ∧ (1#4 : Reg) ≠ 15#4 ∧ 0x1000#32 = sup.cpStart .post false 1#4
          4#32
      ∧ sup.canAccessWords .read 0x1000#32
        ((Config.cpLdcCount 5#4 (encode (.ldcPost .al false true 1#4 3#4 5#4 1#8)) (sup.cp 5#4)).val + 1) = true :=
  ⟨by decide, by decide, by decide, by decide, by decide, by decide, by decide,
    succ_words (p := sup.canAccessWords .read 0x1000#32) (by decide)⟩
theorem test_witness_CoprocessorTransferResults_store :
    Instr.cpTransfer (.stc2Off true false false 15#4 3#4 5#4 0xFF#8) = some stc2Pc
      ∧ Instr.condition (.stc2Off true false false 15#4 3#4 5#4 0xFF#8) = none
      ∧ sup.mayName [15#4] = true ∧ sup.hasNext = true ∧ 0x8404#32 = sup.cpStart .offset true 15#4 0x3FC#32
      ∧ sup.canAccessWords .write 0x8404#32
        ((Config.cpStcCount 5#4 (encode (.stc2Off true false false 15#4 3#4 5#4 0xFF#8)) (sup.cp 5#4)).val + 1) = true
            :=
  ⟨by decide, by decide, by decide, by decide, by decide,
    succ_words (p := sup.canAccessWords .write 0x8404#32) (by decide)⟩
theorem test_witness_CoprocessorTransferResults_conflict :
    Instr.cpTransfer (.stcPost .al true false 15#4 3#4 5#4 1#8) = some ⟨false, .post, true, 15#4, 4#32, 5#4⟩
      ∧ Instr.condition (.stcPost .al true false 15#4 3#4 5#4 1#8) = some .al ∧ condHolds .al sup.cpsr = true
      ∧ sup.mayName [15#4] = true ∧ IndexMode.post ≠ .offset := by decide
/-- Word 0 of a coprocessor transfer is always one of its words. -/
theorem zero_lt_words (n : Fin 16) : 0 < n.val + 1 := Nat.succ_pos _
theorem test_witness_CoprocessorTransferResults_misaligned :
    Instr.cpTransfer (.ldcPost .al false true 3#4 3#4 5#4 1#8) = some ⟨true, .post, false, 3#4, 4#32, 5#4⟩
      ∧ condHolds .al sup.cpsr = true ∧ sup.mayName [3#4] = true ∧ 3#32 = sup.cpStart .post false 3#4 4#32
      ∧ (3#4 : Reg) ≠ 15#4
      ∧ 0 < (Config.cpLdcCount 5#4 (encode (.ldcPost .al false true 3#4 3#4 5#4 1#8)) (sup.cp 5#4)).val + 1
      ∧ sup.canAccessWords .read 3#32 0 = true ∧ wordAligned (3#32 + blockBytes 0) = false :=
  ⟨by decide, by decide, by decide, by decide, by decide, zero_lt_words _, by decide, by decide⟩
theorem test_witness_CoprocessorTransferResults_map :
    let s := platform [⟨0, 0xFFF⟩] [] []
    Instr.cpTransfer (.ldcPost .al false true 1#4 3#4 5#4 1#8) = some ldcDown ∧ condHolds .al s.cpsr = true
      ∧ s.mayName [1#4] = true ∧ 0x1000#32 = s.cpStart .post false 1#4 4#32 ∧ (1#4 : Reg) ≠ 15#4
      ∧ 0 < (Config.cpLdcCount 5#4 (encode (.ldcPost .al false true 1#4 3#4 5#4 1#8)) (s.cp 5#4)).val + 1
      ∧ s.canAccessWords .read 0x1000#32 0 = true ∧ wordAligned (0x1000#32 + blockBytes 0) = true
      ∧ s.inMap .word (0x1000#32 + blockBytes 0) = false :=
  ⟨by decide, by decide, by decide, by decide, by decide, zero_lt_words _, by decide, by decide, by decide⟩
theorem test_witness_CoprocessorTransferResults_abort :
    let s := platform [⟨0, 0xFFFFFFFF⟩] [⟨0x1000, 0x1000, .word, .read, true⟩] []
    Instr.cpTransfer (.ldcPost .al false true 1#4 3#4 5#4 1#8) = some ldcDown ∧ condHolds .al s.cpsr = true
      ∧ s.mayName [1#4] = true ∧ 0x1000#32 = s.cpStart .post false 1#4 4#32 ∧ (1#4 : Reg) ≠ 15#4
      ∧ 0 < (Config.cpLdcCount 5#4 (encode (.ldcPost .al false true 1#4 3#4 5#4 1#8)) (s.cp 5#4)).val + 1
      ∧ s.canAccessWords .read 0x1000#32 0 = true ∧ wordAligned (0x1000#32 + blockBytes 0) = true
      ∧ s.inMap .word (0x1000#32 + blockBytes 0) = true
      ∧ s.abortsAt .word (0x1000#32 + blockBytes 0) .read s.privileged = true :=
  ⟨by decide, by decide, by decide, by decide, by decide, zero_lt_words _, by decide, by decide, by decide, by decide⟩
theorem test_witness_CoprocessorTransferResults_storeAbort :
    let s := platform [⟨0, 0xFFFFFFFF⟩] [⟨0x8404, 0x8404, .word, .write, true⟩] []
    Instr.cpTransfer (.stc2Off true false false 15#4 3#4 5#4 0xFF#8) = some stc2Pc ∧ s.mayName [15#4] = true
      ∧ 0x8404#32 = s.cpStart .offset true 15#4 0x3FC#32
      ∧ 0 < (Config.cpStcCount 5#4 (encode (.stc2Off true false false 15#4 3#4 5#4 0xFF#8)) (s.cp 5#4)).val + 1
      ∧ s.canAccessWords .write 0x8404#32 0 = true ∧ wordAligned (0x8404#32 + blockBytes 0) = true
      ∧ s.inMap .word (0x8404#32 + blockBytes 0) = true
      ∧ s.abortsAt .word (0x8404#32 + blockBytes 0) .write s.privileged = true :=
  ⟨by decide, by decide, by decide, zero_lt_words _, by decide, by decide, by decide, by decide⟩

theorem test_witness_InstructionsThatTakeExceptions :
    condHolds .al sup.cpsr = true ∧ Instr.coprocessor (.mcr .al 0#3 1#4 15#4 15#4 0#3 0#4) = some 15#4
      ∧ Instr.condition (.mcr .al 0#3 1#4 15#4 15#4 0#3 0#4) = some .al
      ∧ sup.mayName (Instr.named (.mcr .al 0#3 1#4 15#4 15#4 0#3 0#4)) = true
      ∧ sup.cpTakes 15#4 (encode (.mcr .al 0#3 1#4 15#4 15#4 0#3 0#4)) = false
      ∧ sup.coprocs[(15 : Fin 16)] = false := by decide

theorem test_witness_BankedRegisterHazard_refused :
    irqAfter.userXfer = true ∧ Instr.condition (.movImm .al false 13#4 0#4 1#8) = some .al
      ∧ condHolds .al irqAfter.cpsr = true
      ∧ (Instr.named (.movImm .al false 13#4 0#4 1#8)).any (fun r => irqAfter.bank.isBanked r) = true := by decide
theorem test_witness_BankedRegisterHazard_failedCondition :
    irqAfter.userXfer = true ∧ Instr.condition (.movImm .eq false 13#4 0#4 1#8) = some .eq
      ∧ condHolds .eq irqAfter.cpsr = false := by decide
theorem test_witness_BankedRegisterHazard_unbanked :
    irqAfter.userXfer = true
      ∧ (Instr.named (.movImm .al false 12#4 0#4 1#8)).any (fun r => irqAfter.bank.isBanked r) = false := by decide

/-- USER mode with Q set. -/
def usrQ : State := machine 0x8000#32 0x08000010#32 [] []
theorem test_witness_FlagsChangeOnlyByTheirWriters :
    (∃ t, exec (.addImm .al false 1#4 0#4 0#4 1#8) usrQ = .next t)
      ∧ Instr.writesFlags (.addImm .al false 1#4 0#4 0#4 1#8) = false
      ∧ Instr.mayClearQ (.addImm .al false 1#4 0#4 0#4 1#8) = false ∧ Psr.q usrQ.cpsr = true :=
  ⟨⟨_, rfl⟩, by decide, by decide, by decide⟩
theorem test_witness_UserModeLeftByExceptionOnly : Psr.mode usr.cpsr = 0b10000#5 ∧ ∃ t, step usr = .next t :=
  ⟨by decide, _, rfl⟩
theorem test_witness_UserModeLeftByExceptionOnly_swi :
    Psr.mode (machine 0x8000#32 0x10#32 [] [(0x8000#32, 0xEF000000#32)]).cpsr = 0b10000#5
      ∧ ∃ t, step (machine 0x8000#32 0x10#32 [] [(0x8000#32, 0xEF000000#32)]) = .next t :=
  ⟨by decide, _, rfl⟩

theorem test_witness_BlockAddresses :
    1 ≤ 16 ∧ 64#32 = BitVec.ofNat 32 (4 * 16)
      ∧ (BlockMode.da, 0xFFFFFFC4#32, 0#32, 0xFFFFFFC0#32)
        ∈ [(BlockMode.ia, 0#32, 0#32 + 64#32 - 4#32, 0#32 + 64#32), (.ib, 0#32 + 4#32, 0#32 + 64#32, 0#32 + 64#32),
          (.da, 0#32 - 64#32 + 4#32, 0#32, 0#32 - 64#32), (.db, 0#32 - 64#32, 0#32 - 4#32, 0#32 - 64#32)] := by decide
/-- Supervisor mode at the last word of the address space. -/
def atEnd : State := { sup with pc := 0xFFFFFFFC#32 }
theorem test_witness_SequentialWrapRefused :
    atEnd.hasNext = false ∧ Instr.writesPc (.swi .al 0#24) = false ∧ ∃ t, exec (.swi .al 0#24) atEnd = .next t :=
  ⟨by decide, by decide, _, rfl⟩
theorem test_witness_SequentialWrapRefused_dataProcessing :
    atEnd.starts .al (DpName.named (.arithmetic .add) 1#4 0#4 (.reg 3#4 .lsl 2#4)) = true
      ∧ namesPc (DpName.named (.arithmetic .add) 1#4 0#4 (.reg 3#4 .lsl 2#4)) (.reg 3#4 .lsl 2#4) = false
      ∧ (0#4 : Reg) ≠ 15#4 ∧ atEnd.starts .al (1#4 :: operand2Regs (.imm 0#4 0#8)) = true
      ∧ namesPc (1#4 :: operand2Regs (.imm 0#4 0#8)) (.imm 0#4 0#8) = false := by decide
theorem test_witness_SequentialWrapRefused_registers :
    Instr.forbidsPc (.swp .al 1#4 0#4 2#4) = true ∧ Instr.condition (.swp .al 1#4 0#4 2#4) = some .al
      ∧ atEnd.starts .al (Instr.named (.swp .al 1#4 0#4 2#4)) = true ∧ 15#4 ∉ Instr.named (.swp .al 1#4 0#4 2#4)
      ∧ Instr.clashes (.swp .al 1#4 0#4 2#4) = false ∧ atEnd.bank ≠ .usr
      ∧ atEnd.canAccess .word (atEnd.reg 1#4) .read atEnd.privileged = true
      ∧ atEnd.canAccess .word (atEnd.reg 1#4) .write atEnd.privileged = true := by decide
theorem test_witness_SequentialWrapRefused_msr :
    atEnd.starts .al (MsrOperand.imm 0#4 0xD3#8).named = true ∧ 15#4 ∉ (MsrOperand.imm 0#4 0xD3#8).named ∧ 1#4 ≠ 0#4
      ∧ msrReservedFree 1#4 ((MsrOperand.imm 0#4 0xD3#8).value atEnd)
      ∧ ((MsrOperand.imm 0#4 0xD3#8).value atEnd).getLsbD 5 = false
      ∧ Merges 0xD3#32 atEnd.cpsr ((MsrOperand.imm 0#4 0xD3#8).value atEnd) (msrWritesCpsr atEnd 1#4)
      ∧ Psr.legalMode (Psr.mode 0xD3#32) = true ∧ atEnd.bank ≠ .usr :=
  ⟨by decide, by decide, by decide, reservedFree_of (by decide), by decide, by unfold Merges; decide, by decide,
    by decide⟩
theorem test_witness_SequentialWrapRefused_single :
    Instr.transfer (.ldrtImm .al true 1#4 0#4 4#12) = some ldrtPost ∧ ldrtPost.op ≠ .ldrPc
      ∧ atEnd.starts .al ldrtPost.named = true ∧ ldrtPost.allowed = true
      ∧ false = (if ldrtPost.op ∈ [.ldrt, .ldrbt, .strt, .strbt] then false else atEnd.privileged)
      ∧ atEnd.canAccess .word (ldrtPost.address atEnd) .read false = true := by decide
theorem test_witness_SequentialWrapRefused_block :
    Instr.blockTransfer (.stmUser .al .db 1#4 0x2001#16) = some pushUser
      ∧ Instr.writesPc (.stmUser .al .db 1#4 0x2001#16) = false
      ∧ atEnd.starts .al (Instr.named (.stmUser .al .db 1#4 0x2001#16)) = true ∧ pushUser.allowed atEnd
      ∧ atEnd.canAccessWords .write (pushUser.start atEnd) (listCount pushUser.list) = true :=
  ⟨by decide, by decide, by decide, by unfold BlockTransfer.allowed; decide, by decide⟩

/-! ## A user-register transfer that aborts (R80; log 11) -/

/-- `LDMIA R1, {R0, R13}^` in IRQ mode, its second word aborting. -/
def userAbort : State := { irq with aborts := [⟨0x1004, 0x1004, .word, .read, true⟩] }
theorem test_ldmUser_abortRemembered :
    ∃ t, exec (.ldmUser .al .ia 1#4 0x2001#15) userAbort = .next t ∧ t.userXfer = true ∧ t.pc = 0x10#32
      ∧ exec (.movImm .al false 13#4 0#4 1#8) t = .refused .bankedAfterUserTransfer
      ∧ ∃ u, exec (.movImm .al false 12#4 0#4 1#8) t = .next u ∧ u.userXfer = false :=
  ⟨_, rfl, rfl, rfl, rfl, _, rfl, rfl⟩

end Sys2Proof.Tests
end

/-!
PROOFS. The state: facts about program status registers, banks and SPSRs; what an instruction that answers a next state
leaves of the state, once for every instruction (`exec_ends`); and from it the invariant of the machine, the rules about
the flags and the rules about USER mode.
-/

namespace Sys2Proof.Machine

/-! ## Program status registers -/

theorem Psr.flags_withQ (p : Word) (q : Bool) : (Psr.withQ p q).extractLsb' 28 4 = p.extractLsb' 28 4 :=
  Psr.field_congr _ _ _ _ fun k hk => by rw [Psr.getLsbD_withQ _ _ _ (by omega), if_neg (by omega)]

theorem Psr.flags_withT (p : Word) (t : Bool) : (Psr.withT p t).extractLsb' 28 4 = p.extractLsb' 28 4 :=
  Psr.field_congr _ _ _ _ fun k hk => by rw [Psr.getLsbD_withT _ _ _ (by omega), if_neg (by omega)]

theorem Psr.flags_entered (p : Word) (f : Bool) (mode : BitVec 5) :
    (Psr.entered p f mode).extractLsb' 28 4 = p.extractLsb' 28 4 :=
  Psr.field_congr _ _ _ _ fun k hk => by
    rw [Psr.getLsbD_entered _ _ _ _ (by omega), if_neg (by omega), if_neg (by omega), if_neg (by omega),
      if_neg (by omega)]

/-- What an instruction may do to the CPSR other than restoring it from an SPSR: it writes N, Z, C and V only when
`flags` (R31), clears Q only when `clearsQ` (R32), changes mode, I and F in a privileged mode only (R34), and enters legal
modes only (R36); the reserved bits stay (R37). -/
structure Psr.Update (flags clearsQ : Bool) (p p' : Word) : Prop where
  legal : Psr.legalMode (Psr.mode p) = true → Psr.legalMode (Psr.mode p') = true
  user : Psr.mode p = 0b10000#5 → Psr.mode p' = 0b10000#5 ∧ Psr.i p' = Psr.i p ∧ Psr.f p' = Psr.f p
  reserved : Psr.reserved p' = Psr.reserved p
  nzcv : flags = false → p'.extractLsb' 28 4 = p.extractLsb' 28 4
  q : clearsQ = false → Psr.q p = true → Psr.q p' = true

namespace Psr.Update

theorem refl (flags clearsQ : Bool) (p : Word) : Psr.Update flags clearsQ p p :=
  ⟨id, fun h => ⟨h, rfl, rfl⟩, rfl, fun _ => rfl, fun _ => id⟩

theorem withNZCV (clearsQ : Bool) (p : Word) (n z c v : Bool) :
    Psr.Update true clearsQ p (Psr.withNZCV p n z c v) where
  legal := by simp
  user := by simp
  reserved := by simp
  nzcv := nofun
  q := by simp

theorem withNZCV_if (sf clearsQ : Bool) (p : Word) (n z c v : Bool) :
    Psr.Update sf clearsQ p (if sf then Psr.withNZCV p n z c v else p) := by
  cases sf
  · exact refl ..
  · exact withNZCV ..

theorem stickyQ (flags clearsQ : Bool) (p : Word) (b : Bool) : Psr.Update flags clearsQ p (Psr.stickyQ p b) where
  legal := by simp
  user := by simp
  reserved := by simp
  nzcv _ := by
    unfold Psr.stickyQ
    split
    · exact Psr.flags_withQ p true
    · rfl
  q _ h := by
    unfold Psr.stickyQ
    split
    · simp
    · exact h

theorem withT (flags clearsQ : Bool) (p : Word) (t : Bool) : Psr.Update flags clearsQ p (Psr.withT p t) where
  legal := by simp
  user := by simp
  reserved := by simp
  nzcv _ := Psr.flags_withT p t
  q := by simp

end Psr.Update

/-! ### MSR -/

/-- The byte mask of an MSR, bit by bit (R39). -/
theorem Psr.getLsbD_byteMask (fields : BitVec 4) (k : Nat) (hk : k < 32) :
    (Psr.byteMask fields).getLsbD k = fields.getLsbD (k / 8) := by
  revert fields k; decide

/-- The bits that an MSR to the CPSR merges are those it may change (R146). -/
theorem getLsbD_msrMask (s : State) (fields : BitVec 4) (k : Nat) (hk : k < 32) :
    (msrMask s fields).getLsbD k = msrWritesCpsr s fields k := by
  have hu : ∀ k < 32, Psr.userMask.getLsbD k = decide (27 ≤ k) := by decide
  have hp : ∀ k < 32, Psr.privMask.getLsbD k = (decide (k < 8) && decide (k ≠ 5)) := by decide
  unfold msrMask msrWritesCpsr
  rw [BitVec.getLsbD_and, Psr.getLsbD_byteMask _ _ hk]
  cases s.privileged
  · simp [hu k hk]
  · simp [hu k hk, hp k hk]

/-- An MSR to the CPSR changes exactly the bits it may change (R146). -/
theorem merges_mergePsr_cpsr (s : State) (fields : BitVec 4) (operand : Word) :
    Merges (mergePsr s.cpsr operand (msrMask s fields)) s.cpsr operand (msrWritesCpsr s fields) := fun k hk => by
  rw [getLsbD_mergePsr _ _ _ _ hk, getLsbD_msrMask _ _ _ hk]

theorem merges_unique {new new' old operand : Word} {writable : Nat → Bool} (h : Merges new old operand writable)
    (h' : Merges new' old operand writable) : new = new' :=
  BitVec.eq_of_getLsbD_eq fun k hk => (h k hk).trans (h' k hk).symm

/-- A bit that an MSR may not change stays. -/
theorem getLsbD_of_merges {new old operand : Word} {writable : Nat → Bool} (h : Merges new old operand writable)
    {k : Nat} (hk : k < 32) (hw : writable k = false) : new.getLsbD k = old.getLsbD k := by
  rw [h k hk, hw]; simp

/-- A field that an MSR may not change stays. -/
theorem extractLsb'_of_merges {new old operand : Word} {writable : Nat → Bool} (h : Merges new old operand writable)
    {start len : Nat} (hl : start + len ≤ 32) (hw : ∀ k, start ≤ k → k < start + len → writable k = false) :
    new.extractLsb' start len = old.extractLsb' start len :=
  Psr.field_congr _ _ _ _ fun k hk => getLsbD_of_merges h (by omega) (hw _ (by omega) (by omega))

/-- No MSR to the CPSR changes T. -/
theorem Psr.t_of_merges {s : State} {fields : BitVec 4} {new operand : Word}
    (h : Merges new s.cpsr operand (msrWritesCpsr s fields)) : Psr.t new = Psr.t s.cpsr :=
  getLsbD_of_merges h (by decide) (by simp [msrWritesCpsr])

/-- An MSR to the CPSR that enters a legal mode (R34, R146). -/
theorem Psr.Update.of_merges {s : State} {fields : BitVec 4} {new operand : Word}
    (h : Merges new s.cpsr operand (msrWritesCpsr s fields)) (hl : Psr.legalMode (Psr.mode new) = true) :
    Psr.Update (fields.getLsbD 3) (fields.getLsbD 3) s.cpsr new where
  legal _ := hl
  user hm := by
    have hp : s.privileged = false := by simp [State.privileged, hm]
    have low : ∀ k, k < 8 → msrWritesCpsr s fields k = false := fun k hk => by
      have hflag : decide (27 ≤ k) = false := decide_eq_false (by omega)
      simp only [msrWritesCpsr, hp, hflag, Bool.false_and, Bool.and_false, Bool.or_false]
    refine ⟨Eq.trans ?_ hm, getLsbD_of_merges h (by decide) (low _ (by decide)),
      getLsbD_of_merges h (by decide) (low _ (by decide))⟩
    exact extractLsb'_of_merges h (by decide) fun k _ hk => low k (by omega)
  reserved := extractLsb'_of_merges h (by decide) fun k h8 hk => by
    have hflag : decide (27 ≤ k) = false := decide_eq_false (by omega)
    have hlow : decide (k < 8) = false := decide_eq_false (by omega)
    simp only [msrWritesCpsr, hflag, hlow, Bool.and_false, Bool.false_and, Bool.or_false]
  nzcv hf := extractLsb'_of_merges h (by decide) fun k h28 hk => by
    rw [msrWritesCpsr, show k / 8 = 3 by omega, hf, Bool.false_and]
  q hf hq := by
    unfold Psr.q
    rw [getLsbD_of_merges h (by decide) (by rw [msrWritesCpsr, show 27 / 8 = 3 by omega, hf, Bool.false_and])]
    exact hq

/-- The reserved bits of an MSR's operand are free exactly when its reserved-bit check passes (R146). -/
theorem msrReservedFree_iff (fields : BitVec 4) (operand : Word) :
    msrReservedFree fields operand ↔ operand &&& Psr.byteMask fields &&& Psr.unallocMask = 0#32 := by
  have hm : ∀ k < 32, Psr.unallocMask.getLsbD k = (decide (8 ≤ k) && decide (k < 27)) := by decide
  constructor
  · intro h
    refine BitVec.eq_of_getLsbD_eq fun k hk => ?_
    have := h k
    simp only [BitVec.getLsbD_and, Psr.getLsbD_byteMask _ _ hk, hm k hk]
    grind
  · intro h k h8 h27 hf
    have := congrArg (·.getLsbD k) h
    simp only [BitVec.getLsbD_and, Psr.getLsbD_byteMask _ _ (show k < 32 by omega), hm k (by omega), hf] at this
    simpa [h8, h27] using this

/-- An MSR may not set T: the check of a privileged mode passes when bit 5 is 0 or not selected (R146). -/
theorem msrSetsT_iff (fields : BitVec 4) (operand : Word) :
    operand &&& Psr.byteMask fields &&& Psr.stateMask = 0#32 ↔
      (fields.getLsbD 0 = true → operand.getLsbD 5 = false) := by
  have hm : ∀ k < 32, Psr.stateMask.getLsbD k = decide (k = 5) := by decide
  constructor
  · intro h hf
    have := congrArg (·.getLsbD 5) h
    simp only [BitVec.getLsbD_and, Psr.getLsbD_byteMask _ _ (show 5 < 32 by decide), hm 5 (by decide)] at this
    simpa only [hf, Nat.reduceDiv, decide_true, Bool.and_true, BitVec.getLsbD_zero] using this
  · intro h
    refine BitVec.eq_of_getLsbD_eq fun k hk => ?_
    simp only [BitVec.getLsbD_and, Psr.getLsbD_byteMask _ _ hk, hm k hk, BitVec.getLsbD_zero]
    by_cases h5 : k = 5
    · subst h5
      simp only [Nat.reduceDiv, decide_true, Bool.and_true, Bool.and_eq_false_iff]
      cases hf : fields.getLsbD 0
      · exact .inr rfl
      · exact .inl (h hf)
    · simp only [h5, decide_false, Bool.and_false]

/-- A merge whose operand has no reserved bit under the mask keeps the reserved bits 0 (R37, R146). -/
theorem Psr.clean_mergePsr {p operand mask : Word} (hp : Psr.clean p)
    (hm : operand &&& mask &&& Psr.unallocMask = 0#32) : Psr.clean (mergePsr p operand mask) := by
  rw [Psr.reserved_eq_zero_iff] at hp ⊢
  refine BitVec.eq_of_getLsbD_eq fun k hk => ?_
  have h1 := congrArg (·.getLsbD k) hp
  have h2 := congrArg (·.getLsbD k) hm
  simp only [BitVec.getLsbD_and, getLsbD_mergePsr _ _ _ _ hk, BitVec.getLsbD_zero] at h1 h2 ⊢
  split <;> simp_all

/-! ## Banks and SPSRs -/

/-- USER mode uses the User bank (R29). -/
theorem State.bank_of_user {s : State} (h : Psr.mode s.cpsr = 0b10000#5) : s.bank = .usr := by
  rw [State.bank, h]; decide

theorem Exc.bank_ne_usr (e : Exc) : e.bank ≠ .usr := by cases e <;> decide

@[simp] theorem Exc.ofMode_mode (e : Exc) : Bank.ofMode e.mode = e.bank := by cases e <;> rfl

@[simp] theorem Exc.legalMode_mode (e : Exc) : Psr.legalMode e.mode = true := by cases e <;> rfl

@[simp] theorem Exc.vectorBase_add (e : Exc) : Config.vectorBase + e.vector = e.vector := BitVec.zero_add _

@[simp] theorem Exc.wordAligned_vector (e : Exc) : wordAligned e.vector = true := by cases e <;> rfl

/-- The User bank's registers are the first fifteen (R29). -/
theorem Bank.index_usr_lt (r : Reg) (h : r ≠ 15#4) : (Bank.usr.index r).val < 15 := by
  revert r; decide

@[simp] theorem Spsrs.get_set_exc (p : Spsrs) (e : Exc) (v : Word) : (p.set e.bank v).get e.bank = some v := by
  cases e <;> rfl

theorem Spsrs.get_set_of_ne (p : Spsrs) {b b' : Bank} (v : Word) (h : b' ≠ b) : (p.set b v).get b' = p.get b' := by
  cases b <;> cases b' <;> simp_all [Spsrs.set, Spsrs.get]

/-- The reserved bits of every SPSR are 0 (R37). -/
def Spsrs.Clean (p : Spsrs) : Prop := ∀ b w, p.get b = some w → Psr.clean w

theorem Spsrs.Clean.set {p : Spsrs} {v : Word} (h : p.Clean) (hv : Psr.clean v) (b : Bank) : (p.set b v).Clean := by
  intro b' w hw
  by_cases hb : b' = b
  · subst hb
    cases b' <;> cases hw <;> exact hv
  · exact h b' w (Spsrs.get_set_of_ne p v hb ▸ hw)

theorem State.Inv.spsr {s : State} (h : s.Inv) : s.spsr.Clean
  | .fiq, _, rfl => h.fiq
  | .irq, _, rfl => h.irq
  | .svc, _, rfl => h.svc
  | .abt, _, rfl => h.abt
  | .und, _, rfl => h.und

/-- A write of a User register leaves the registers of the other banks (R29). -/
theorem State.getElem_setBankReg_usr (s : State) (r : Reg) (v : Word) (k : Fin 30) (hk : 15 ≤ k.val) :
    (s.setBankReg .usr r v).gpr[k] = s.gpr[k] := by
  by_cases hr : r = 15#4
  · simp [State.setBankReg, hr]
  · have := Bank.index_usr_lt r hr
    simp only [State.setBankReg_gpr _ _ _ _ hr, Fin.getElem_fin]
    exact Vector.getElem_set_ne _ _ (by omega)

/-- A write of a register and a write of a CPSR of the same mode commute. -/
theorem State.setReg_withCpsr (s : State) {p : Word} (hp : Psr.mode p = Psr.mode s.cpsr) (r : Reg) (v : Word) :
    (s.withCpsr p).setReg r v = (s.setReg r v).withCpsr p := by
  have hb : (s.withCpsr p).bank = s.bank := congrArg Bank.ofMode hp
  unfold State.setReg State.setBankReg
  rw [hb]
  split <;> rfl

theorem State.withCpsr_if (s : State) (p : Word) (sf : Bool) :
    (if sf then s.withCpsr p else s) = s.withCpsr (if sf then p else s.cpsr) := by
  cases sf <;> rfl

/-! ## What an instruction leaves of registers, SPSRs and memory -/

/-- What the effect of an instruction, short of an exception entry, respects from a state `s` to a state `u`: in the User
bank it changes no SPSR (R40) and no register of another bank (R34); reserved SPSR bits stay 0 (R37); memory and the
record of written bytes stay canonical. -/
structure Moved (s u : State) : Prop where
  spsrUser : s.bank = .usr → u.spsr = s.spsr
  spsrClean : s.spsr.Clean → u.spsr.Clean
  gpr : s.bank = .usr → ∀ k : Fin 30, 15 ≤ k.val → u.gpr[k] = s.gpr[k]
  mem : Memory.wf s.mem = true → Memory.wf u.mem = true
  written : AddrSet.wf s.written = true → AddrSet.wf u.written = true

namespace Moved

variable {s u : State}

theorem refl (s : State) : Moved s s := ⟨fun _ => rfl, id, fun _ _ _ => rfl, id, id⟩

theorem withPc (h : Moved s u) (v : Word) : Moved s (u.withPc v) := { h with }

theorem withCpsr (h : Moved s u) (p : Word) : Moved s (u.withCpsr p) := { h with }

theorem withCpState (h : Moved s u) (v : Vector Nat 16) : Moved s (u.withCpState v) := { h with }

theorem withUserXfer (h : Moved s u) (b : Bool) : Moved s (u.withUserXfer b) := { h with }

/-- A write of a register of the current mode, or of any bank in a mode that is not of the User bank. -/
theorem setBankReg (h : Moved s u) {b : Bank} (hb : s.bank = .usr → b = .usr) (r : Reg) (v : Word) :
    Moved s (u.setBankReg b r v) where
  spsrUser := by simpa using h.spsrUser
  spsrClean := by simpa using h.spsrClean
  gpr hs k hk := by rw [hb hs, u.getElem_setBankReg_usr r v k hk, h.gpr hs k hk]
  mem := by simpa using h.mem
  written := by simpa using h.written

theorem setReg (h : Moved s u) (hb : u.bank = s.bank) (r : Reg) (v : Word) : Moved s (u.setReg r v) :=
  h.setBankReg (fun hs => hb.trans hs) r v

theorem setBankRegs {b : Bank} (hb : s.bank = .usr → b = .usr) (l : List (Reg × Word)) (h : Moved s u) :
    Moved s (u.setBankRegs b l) := by
  induction l generalizing u with
  | nil => exact h
  | cons p rest ih => exact ih (h.setBankReg hb p.1 p.2)

theorem writeBack (h : Moved s u) (hb : u.bank = s.bank) (wb : Bool) (rn : Reg) (v : Word) :
    Moved s (u.writeBack wb rn v) := by
  unfold State.writeBack
  split
  · exact h.setReg hb rn v
  · exact h

theorem stored (h : Moved s u) (z : Size) (a v : Word) : Moved s (u.stored z a v) :=
  { h with
    mem := fun hm => Memory.wf_store _ z a v (h.mem hm)
    written := fun hw => AddrSet.wf_markAll _ _ (h.written hw) }

theorem storeBlock (h : Moved s u) (a : Word) (words : List Word) : Moved s (storeBlock u a words).1 := by
  induction words generalizing u a with
  | nil => exact h
  | cons v rest ih =>
    simp only [Machine.storeBlock]
    split
    · next u' hu =>
      obtain ⟨_, rfl⟩ := memWrite_ok hu
      exact ih (h.stored .word a v) _
    all_goals exact h

theorem cpWords (h : Moved s u) (load : Bool) (p : BitVec 4) (bits a : Word) :
    Moved s (cpWords load p bits a u).1 := by
  unfold Machine.cpWords
  split
  · rw [ldcWords_frame]
    exact h.withCpState _
  · exact Moved.storeBlock (h.withCpState _) a _

/-- An MSR to the SPSR whose reserved-bit check has passed (R146). -/
theorem msrSpsr (h : Moved s u) (saved operand mask : Word) (hs : u.savedPsr = some saved) (hb : u.bank = s.bank)
    (hm : operand &&& mask &&& Psr.unallocMask = 0#32) :
    Moved s (u.withSpsr (u.spsr.set u.bank (mergePsr saved operand mask))) :=
  { h with
    spsrUser := fun hu => by rw [State.savedPsr, hb, hu] at hs; cases hs
    spsrClean := fun hc => (h.spsrClean hc).set (Psr.clean_mergePsr (h.spsrClean hc _ _ hs) hm) _ }

end Moved

/-! ## How an instruction ends -/

/-- How an instruction that answers a next state `t` ends, by what it is allowed: to write the flags, to clear Q, to
write R15. It goes on sequentially, branches, returns from an exception, or takes an exception. -/
inductive Ends (flags clearsQ toPc : Bool) (s t : State) : Prop where
  | sequential (moved : Moved s t) (cpsr : Psr.Update flags clearsQ s.cpsr t.cpsr)
      (thumb : Psr.t t.cpsr = Psr.t s.cpsr)
      (next : s.hasNext = true) (pc : t.pc = s.pc + 4#32) (xfer : t.userXfer = true → t.bank ≠ .usr)
  | branch (moved : Moved s t) (cpsr : Psr.Update flags clearsQ s.cpsr t.cpsr)
      (aligned : Psr.t t.cpsr = false → wordAligned t.pc = true) (xfer : t.userXfer = false) (pc : toPc = true)
  | returned (moved : Moved s t) (saved : s.savedPsr = some t.cpsr) (legal : Psr.legalMode (Psr.mode t.cpsr) = true)
      (aligned : Psr.t t.cpsr = false → wordAligned t.pc = true) (xfer : t.userXfer = false)
      (allowed : flags = true ∧ clearsQ = true ∧ toPc = true)
  | exception (e : Exc) (u : State) (b : Bool) (moved : Moved s u) (cpsr : u.cpsr = s.cpsr)
      (entry : t = (takeException e u).withUserXfer b)

/-- A state on the way of an instruction of `s`: registers, SPSRs and memory moved, nothing else of what the end of the
instruction looks at. -/
structure Midway (s u : State) : Prop where
  moved : Moved s u
  cpsr : u.cpsr = s.cpsr
  pc : u.pc = s.pc
  xfer : u.userXfer = false

namespace Midway

variable {s u : State}

theorem start (s : State) : Midway s (s.withUserXfer false) := ⟨(Moved.refl s).withUserXfer false, rfl, rfl, rfl⟩

theorem bank (h : Midway s u) : u.bank = s.bank := by rw [State.bank, h.cpsr, State.bank]

theorem savedPsr (h : Midway s u) (hs : u.spsr = s.spsr) : u.savedPsr = s.savedPsr := by
  rw [State.savedPsr, hs, h.bank, State.savedPsr]

theorem setReg (h : Midway s u) {r : Reg} (hr : r ≠ 15#4) (v : Word) : Midway s (u.setReg r v) :=
  ⟨h.moved.setReg h.bank r v, by simpa using h.cpsr, (u.setReg_pc r v hr).trans h.pc, by simpa using h.xfer⟩

theorem setBankRegs (h : Midway s u) {b : Bank} (hb : s.bank = .usr → b = .usr) {l : List (Reg × Word)}
    (hl : ∀ p ∈ l, p.1 ≠ 15#4) : Midway s (u.setBankRegs b l) :=
  ⟨h.moved.setBankRegs hb l, by simpa using h.cpsr, (u.setBankRegs_pc b l hl).trans h.pc, by simpa using h.xfer⟩

theorem writeBack (h : Midway s u) {wb : Bool} {rn : Reg} (hr : wb = true → rn ≠ 15#4) (v : Word) :
    Midway s (u.writeBack wb rn v) :=
  ⟨h.moved.writeBack h.bank wb rn v, by simpa using h.cpsr, (u.writeBack_pc wb rn v hr).trans h.pc,
    by simpa using h.xfer⟩

theorem stored (h : Midway s u) (z : Size) (a v : Word) : Midway s (u.stored z a v) :=
  ⟨h.moved.stored z a v, h.cpsr, h.pc, h.xfer⟩

theorem setCp (h : Midway s u) (p : BitVec 4) (st : Nat) : Midway s (u.setCp p st) :=
  ⟨h.moved.withCpState _, h.cpsr, h.pc, h.xfer⟩

theorem storeBlock (h : Midway s u) (a : Word) (words : List Word) : Midway s (storeBlock u a words).1 := by
  have hm := h.moved.storeBlock a words
  rw [storeBlock_frame] at hm ⊢
  exact ⟨hm, h.cpsr, h.pc, h.xfer⟩

theorem cpWords (h : Midway s u) (load : Bool) (p : BitVec 4) (bits a : Word) :
    Midway s (cpWords load p bits a u).1 := by
  have hm := h.moved.cpWords load p bits a
  rw [cpWords_frame] at hm ⊢
  exact ⟨hm, h.cpsr, h.pc, h.xfer⟩

end Midway

namespace Ends

variable {flags clearsQ toPc : Bool} {s u t : State}

/-- An instruction whose condition fails (R27). -/
theorem advanced (h : s.hasNext = true) : Ends flags clearsQ toPc s s.advanced :=
  .sequential { Moved.refl s with } (.refl ..) rfl h rfl nofun

/-- The CPSR written, then the next instruction. -/
theorem of_advance_withCpsr (h : Midway s u) {p : Word} (hp : Psr.Update flags clearsQ s.cpsr p)
    (hthumb : Psr.t p = Psr.t s.cpsr) (ht : advance (u.withCpsr p) = .next t) : Ends flags clearsQ toPc s t := by
  obtain ⟨hn, rfl⟩ := advance_next ht
  have hx : u.userXfer = false := h.xfer
  exact .sequential (h.moved.withCpsr p |>.withPc _) hp hthumb (by simpa [State.hasNext, h.pc] using hn)
    (by simp [h.pc]) (by simp [hx])

theorem of_advance (h : Midway s u) (ht : advance u = .next t) : Ends flags clearsQ toPc s t :=
  of_advance_withCpsr (p := u.cpsr) h (h.cpsr ▸ .refl ..) (by rw [h.cpsr]) ht

theorem of_branchTo (h : Midway s u) {v : Word} (ht : branchTo v u = .next t) : Ends flags clearsQ true s t := by
  obtain ⟨hv, rfl⟩ := branchTo_next ht
  exact .branch (h.moved.withPc v) (by simpa [h.cpsr] using .refl ..) (fun _ => hv) h.xfer rfl

theorem of_branchExchange (h : Midway s u) {v : Word} (ht : branchExchange v u = .next t) :
    Ends flags clearsQ true s t := by
  obtain ⟨hv, rfl⟩ := branchExchange_next ht
  refine .branch (h.moved.withCpsr _ |>.withPc _) (by simpa [h.cpsr] using .withT ..) (fun hT => ?_) h.xfer rfl
  exact wordAligned_clearBit0 v (hv (by simpa using hT))

theorem of_returnTo (h : Midway s u) (hs : u.spsr = s.spsr) {v : Word} (ht : returnTo v u = .next t) :
    Ends true true true s t := by
  obtain ⟨saved, hsaved, hl, hv, rfl⟩ := returnTo_next ht
  refine .returned (h.moved.withCpsr _ |>.withPc _) (h.savedPsr hs ▸ hsaved) hl (fun hT => ?_) h.xfer
    ⟨rfl, rfl, rfl⟩
  have hT : Psr.t saved = false := hT
  simpa [hT] using hv hT

theorem of_takeException (h : Midway s u) (e : Exc) : Ends flags clearsQ toPc s (takeException e u) :=
  .exception e u false h.moved h.cpsr rfl

theorem of_raise (h : Midway s u) {e : Exc} (ht : raise e u = .next t) : Ends flags clearsQ toPc s t :=
  raise_next ht ▸ of_takeException h e

theorem of_dataAbort (h : Midway s u) {rn : Reg} {wb : Bool} {base final : Word}
    (ht : dataAbort rn wb base final u = .next t) : Ends flags clearsQ toPc s t := by
  rcases dataAbort_next ht with rfl | ⟨hr, v, rfl⟩
  · exact of_takeException h _
  · exact of_takeException (h.setReg hr v) _

/-- A user-register transfer, its last access made or aborted, is remembered in a mode that has an SPSR (R403). -/
theorem of_remembering (h : Midway s u) (hs : s.bank ≠ .usr) {rn : Reg} {wb : Bool} {base final : Word}
    (ht : advance u = .next t ∨ dataAbort rn wb base final u = .next t) :
    Ends flags clearsQ toPc s (t.withUserXfer true) := by
  rcases ht with ht | ht
  · obtain ⟨hn, rfl⟩ := advance_next ht
    refine .sequential (h.moved.withPc _ |>.withUserXfer true) (by simpa [h.cpsr] using .refl ..) (by simp [h.cpsr])
      (by simpa [State.hasNext, h.pc] using hn) (by simp [h.pc]) fun _ => ?_
    simpa [h.bank] using hs
  · rcases dataAbort_next ht with rfl | ⟨hr, v, rfl⟩
    · exact .exception _ u true h.moved h.cpsr rfl
    · exact .exception _ _ true (h.setReg hr v).moved (h.setReg hr v).cpsr rfl

end Ends

/-! ## The end of every frame of the instructions -/

section Frames

variable {s t : State} {c : Cond} {flags clearsQ toPc : Bool}

theorem dataProcessing_ends {op : AluOp} {sf : Bool} {rd : Reg} {rn : Option Reg} {o : Operand2}
    (h : dataProcessing op c sf rd rn o s = .next t) : Ends sf (sf && rd == 15#4) (rd == 15#4) s t := by
  rcases dataProcessing_next h with ⟨_, hn, rfl⟩ | ⟨_, _, _, hw⟩
  · exact .advanced hn
  · rcases writeResult_next hw with ⟨rfl, rfl, hr⟩ | ⟨rfl, rfl, hb⟩ | ⟨hrd, hn, rfl⟩
    · exact .of_returnTo (.start s) rfl hr
    · exact .of_branchTo (.start s) hb
    · rw [State.withCpsr_if, State.setReg_withCpsr _ (by cases sf <;> simp [aluFlags])]
      have hm := (Midway.start s).setReg hrd (aluResult op rn o (s.withUserXfer false)).result
      exact .sequential (hm.moved.withCpsr _ |>.withPc _) (.withNZCV_if ..) (by cases sf <;> simp [aluFlags]) hn rfl
        (by simp)

theorem compare_ends {op : AluOp} {rn : Reg} {o : Operand2} (h : compare op c rn o s = .next t) :
    Ends true clearsQ toPc s t := by
  rcases compare_next h with ⟨_, hn, rfl⟩ | ⟨_, _, _, hn, rfl⟩
  · exact .advanced hn
  · exact Ends.sequential { Moved.refl s with } (.withNZCV ..) (Psr.t_setNZCV ..) hn rfl nofun

/-- An instruction of the general registers: its effect is register writes and an update of the CPSR. -/
theorem registersOnly_ends {named : List Reg} {clash : Bool} {effect : State → State}
    (h : registersOnly c named clash s effect = .next t)
    (heffect : (∀ r ∈ named, r ≠ 15#4) → ∃ u p, Midway s u ∧ Psr.Update flags clearsQ s.cpsr p ∧
      Psr.t p = Psr.t s.cpsr ∧ effect (s.withUserXfer false) = u.withCpsr p) :
    Ends flags clearsQ toPc s t := by
  rcases registersOnly_next h with ⟨_, hn, rfl⟩ | ⟨_, _, hr, _, ha⟩
  · exact .advanced hn
  · obtain ⟨u, p, hu, hp, hT, he⟩ := heffect hr
    exact .of_advance_withCpsr hu hp hT (he ▸ ha)

/-- A 32-bit product is written with N and Z under S only (R181, R193). -/
theorem writeProduct_eq (sf : Bool) (rd : Reg) (result : Word) (s : State) :
    writeProduct sf rd result s =
      (s.setReg rd result).withCpsr (if sf then Psr.setNZ s.cpsr result else s.cpsr) := by
  rw [writeProduct, State.withCpsr_if, State.setReg_withCpsr _ (by cases sf <;> simp)]

/-- A 64-bit result is written with N and Z under S only (R183, R193). -/
theorem writeLong_eq (sf : Bool) (hi lo : Reg) (p : BitVec 64) (s : State) :
    writeLong sf hi lo p s =
      ((s.setReg hi (p.extractLsb' 32 32)).setReg lo (p.extractLsb' 0 32)).withCpsr
        (if sf then Psr.setNZ64 s.cpsr p else s.cpsr) := by
  have hm : Psr.mode (if sf then Psr.setNZ64 s.cpsr p else s.cpsr) = Psr.mode s.cpsr := by cases sf <;> simp
  rw [writeLong, State.withCpsr_if, State.setReg_withCpsr _ hm, State.setReg_withCpsr _ (by simpa using hm)]

theorem writeSaturated_eq (rd : Reg) (x : Int) (q : Bool) (s : State) :
    writeSaturated rd x q s = (s.setReg rd (sat x)).withCpsr (Psr.stickyQ s.cpsr q) :=
  State.setReg_withCpsr _ (by simp) _ _

theorem writeAccumulated_eq (rd : Reg) (x : Int) (s : State) :
    writeAccumulated rd x s =
      (s.setReg rd (BitVec.ofInt 32 x)).withCpsr (Psr.stickyQ s.cpsr (!fitsSigned x)) :=
  State.setReg_withCpsr _ (by simp) _ _

/-- An instruction that writes one general register and nothing else. -/
theorem registersOnly_setReg_ends {named : List Reg} {clash : Bool} {rd : Reg} {v : State → Word}
    (h : registersOnly c (rd :: named) clash s (fun s => s.setReg rd (v s)) = .next t) :
    Ends flags clearsQ toPc s t := by
  rcases registersOnly_next h with ⟨_, hn, rfl⟩ | ⟨_, _, hr, _, ha⟩
  · exact .advanced hn
  · exact .of_advance ((Midway.start s).setReg (hr rd (List.mem_cons_self ..)) _) ha

theorem registersOnly_writeProduct_ends {named : List Reg} {clash sf : Bool} {rd : Reg} {v : State → Word}
    (h : registersOnly c (rd :: named) clash s (fun s => writeProduct sf rd (v s) s) = .next t) :
    Ends sf clearsQ toPc s t :=
  registersOnly_ends h fun hr =>
    ⟨_, _, (Midway.start s).setReg (hr rd (List.mem_cons_self ..)) _, .withNZCV_if .., by cases sf <;> simp,
      writeProduct_eq ..⟩

theorem registersOnly_writeLong_ends {named : List Reg} {clash sf : Bool} {hi lo : Reg} {v : State → BitVec 64}
    (h : registersOnly c (hi :: lo :: named) clash s (fun s => writeLong sf hi lo (v s) s) = .next t) :
    Ends sf clearsQ toPc s t :=
  registersOnly_ends h fun hr =>
    ⟨_, _, ((Midway.start s).setReg (hr hi (by simp)) _).setReg (hr lo (by simp)) _, .withNZCV_if ..,
      by cases sf <;> simp, writeLong_eq ..⟩

theorem registersOnly_writeSaturated_ends {named : List Reg} {clash : Bool} {rd : Reg} {x : State → Int}
    {q : State → Bool}
    (h : registersOnly c (rd :: named) clash s (fun s => writeSaturated rd (x s) (q s) s) = .next t) :
    Ends flags clearsQ toPc s t :=
  registersOnly_ends h fun hr =>
    ⟨_, _, (Midway.start s).setReg (hr rd (List.mem_cons_self ..)) _, .stickyQ .., Psr.t_stickyQ ..,
      writeSaturated_eq ..⟩

theorem registersOnly_writeAccumulated_ends {named : List Reg} {clash : Bool} {rd : Reg} {x : State → Int}
    (h : registersOnly c (rd :: named) clash s (fun s => writeAccumulated rd (x s) s) = .next t) :
    Ends flags clearsQ toPc s t :=
  registersOnly_ends h fun hr =>
    ⟨_, _, (Midway.start s).setReg (hr rd (List.mem_cons_self ..)) _, .stickyQ .., Psr.t_stickyQ ..,
      writeAccumulated_eq ..⟩

theorem execMrsSpsr_ends {rd : Reg} (h : execMrsSpsr c rd s = .next t) : Ends flags clearsQ toPc s t := by
  rcases conditional_next h with ⟨_, _, hb⟩ | ⟨_, hn, rfl⟩
  · split at hb
    · cases hb
    · next hrd =>
      split at hb
      · cases hb
      · exact .of_advance ((Midway.start s).setReg hrd _) hb
  · exact .advanced hn

theorem msrCpsr_ends {fields : BitVec 4} {operand : Word}
    (h : msrCpsr fields operand (s.withUserXfer false) = .next t) :
    Ends (fields.getLsbD 3) (fields.getLsbD 3) toPc s t := by
  obtain ⟨_, _, _, hl, hn, rfl⟩ := msrCpsr_next h
  have hm := merges_mergePsr_cpsr s fields operand
  exact .sequential { Moved.refl s with } (.of_merges hm hl) (Psr.t_of_merges hm) hn rfl nofun

theorem msrSpsr_ends {fields : BitVec 4} {operand : Word}
    (h : msrSpsr fields operand (s.withUserXfer false) = .next t) :
    Ends flags clearsQ toPc s t := by
  obtain ⟨_, hfree, hn, saved, hs, rfl⟩ := msrSpsr_next h
  have hmask : operand &&& (Psr.byteMask fields &&& (Psr.userMask ||| Psr.privMask ||| Psr.stateMask)) &&&
      Psr.unallocMask = 0#32 := by
    have : (Psr.userMask ||| Psr.privMask ||| Psr.stateMask) &&& Psr.unallocMask = 0#32 := by decide
    rw [BitVec.and_assoc, BitVec.and_assoc, this]; simp
  exact .sequential (((Moved.refl s).withUserXfer false).msrSpsr saved operand _ hs rfl hmask |>.withPc _) (.refl ..)
    rfl hn rfl nofun

theorem conditional_ends {named : List Reg} {body : State → Result} (h : conditional c named s body = .next t)
    (hbody : body (s.withUserXfer false) = .next t → Ends flags clearsQ toPc s t) : Ends flags clearsQ toPc s t := by
  rcases conditional_next h with ⟨_, _, hb⟩ | ⟨_, hn, rfl⟩
  · exact hbody hb
  · exact .advanced hn

theorem swap_ends {z : Size} {rn rd rm : Reg} (h : swap z c rn rd rm s = .next t) : Ends flags clearsQ toPc s t := by
  rcases swap_next h with ⟨_, hn, rfl⟩ | ⟨_, _, hrd, _, _, _, rfl | ha⟩
  · exact .advanced hn
  · exact .of_takeException (.start s) _
  · exact .of_advance (((Midway.start s).stored ..).setReg hrd _) ha

/-- A single transfer that is not restricted writes back to no R15, and loads R15 by LDR to R15 only (R246). -/
theorem singleRestriction_eq_none {op : SingleOp} {wb : Bool} {rn rd : Reg} {rm : Option Reg}
    (h : singleRestriction op wb rn rd rm = none) :
    (wb = true → rn ≠ 15#4) ∧ (rd = 15#4 → op.allowsPc = true) := by
  unfold singleRestriction at h
  split at h; · cases h
  next h1 =>
  split at h; · cases h
  split at h; · cases h
  next h3 => simp_all

/-- Of the loads only LDR to R15 may have R15 as Rd (R246). -/
theorem SingleOp.eq_ldrPc_of_allowsPc (op : SingleOp) : op.isLoad = true → op.allowsPc = true → op = .ldrPc := by
  cases op <;> decide

theorem singleTransfer_ends {op : SingleOp} {ix : IndexMode} {u : Bool} {rn rd : Reg} {off : Offset}
    (h : singleTransfer op c ix u rn rd off s = .next t) : Ends flags clearsQ (op == .ldrPc) s t := by
  rcases singleTransfer_next h with ⟨_, hn, rfl⟩ | ⟨_, _, hr, ha⟩
  · exact .advanced hn
  · obtain ⟨hrn, hrd⟩ := singleRestriction_eq_none hr
    rcases singleAccess_next ha with hd | ⟨hload, _, hf⟩ | ⟨_, _, hs⟩
    · exact .of_dataAbort (.start s) hd
    · rcases finishLoad_next hf with ⟨rfl, hb⟩ | ⟨hop, had⟩
      · exact .of_branchExchange ((Midway.start s).writeBack hrn _) hb
      · have hrd : rd ≠ 15#4 := fun he => hop (op.eq_ldrPc_of_allowsPc hload (hrd he))
        exact .of_advance (((Midway.start s).writeBack hrn _).setReg hrd _) had
    · exact .of_advance (((Midway.start s).stored ..).writeBack hrn _) hs

/-- The registers of a list that cannot hold R15. -/
theorem ne_pc_of_mem_listRegs {list : BitVec 15} {r : Reg} (h : r ∈ listRegs list) : r ≠ 15#4 := by
  rintro rfl
  rw [mem_listRegs (by decide)] at h
  simp at h

theorem ldmRestriction_eq_none {n : Nat} {wb : Bool} {rn : Reg} {list : BitVec n}
    (h : ldmRestriction wb rn list = none) : rn ≠ 15#4 := by
  rintro rfl
  cases h

theorem stmRestriction_eq_none {wb : Bool} {rn : Reg} {list : BitVec 16} (h : stmRestriction wb rn list = none) :
    rn ≠ 15#4 := by
  rintro rfl
  cases h

/-- The loads of a block leave a state midway, whatever is then done with it. -/
theorem Midway.loadedRegs {u : State} (h : Midway s u) {am : BlockMode} {wb : Bool} {rn : Reg} (hrn : rn ≠ 15#4)
    (count : Nat) {vals : List (Reg × Word)} (hv : ∀ p ∈ vals, p.1 ≠ 15#4) :
    Midway s (loadedRegs am wb rn count vals u) :=
  (h.writeBack (fun _ => hrn) _).setBankRegs (fun hs => h.bank.trans hs) hv

@[simp] theorem loadedRegs_spsr (am : BlockMode) (wb : Bool) (rn : Reg) (count : Nat) (vals : List (Reg × Word))
    (s : State) : (loadedRegs am wb rn count vals s).spsr = s.spsr := by
  simp [loadedRegs]

theorem execLdm_ends {am : BlockMode} {w : Bool} {rn : Reg} {list : BitVec 15}
    (h : execLdm c am w rn list s = .next t) :
    Ends flags clearsQ toPc s t :=
  conditional_ends h fun hb => by
    split at hb; · cases hb
    next hr =>
    obtain ⟨vals, hv, ha | hd⟩ := loadRegs_next hb
    all_goals have hv : ∀ p ∈ vals, p.1 ≠ 15#4 := fun p hp => ne_pc_of_mem_listRegs (hv p hp)
    · exact .of_advance ((Midway.start s).loadedRegs (ldmRestriction_eq_none hr) _ hv) ha
    · exact .of_dataAbort ((Midway.start s).setBankRegs id hv) hd

/-- A block load whose list has R15: the loads, the word for R15, and what is done with it. -/
theorem loadRegs_pc_ends {am : BlockMode} {w : Bool} {rn : Reg} {list : BitVec 15}
    {finish : List (Reg × Word) → Word → Result}
    (h : loadRegs am w rn (listRegs list) ((listRegs list).length + 1) (s.withUserXfer false).bank
      (s.withUserXfer false) (fun vals => loadPcWord am w rn list vals (s.withUserXfer false) (finish vals)) = .next t)
    (hfinish : ∀ vals data, (∀ p ∈ vals, p.1 ≠ 15#4) → finish vals data = .next t →
      Ends flags clearsQ toPc s t) :
    Ends flags clearsQ toPc s t := by
  obtain ⟨vals, hv, hl | hd⟩ := loadRegs_next h
  all_goals have hv : ∀ p ∈ vals, p.1 ≠ 15#4 := fun p hp => ne_pc_of_mem_listRegs (hv p hp)
  · rcases loadPcWord_next hl with ⟨data, hf⟩ | hd
    · exact hfinish vals data hv hf
    · exact .of_dataAbort ((Midway.start s).setBankRegs id hv) hd
  · exact .of_dataAbort ((Midway.start s).setBankRegs id hv) hd

theorem execLdmPc_ends {am : BlockMode} {w : Bool} {rn : Reg} {list : BitVec 15}
    (h : execLdmPc c am w rn list s = .next t) : Ends flags clearsQ true s t :=
  conditional_ends h fun hb => by
    split at hb; · cases hb
    next hr =>
    exact loadRegs_pc_ends hb fun vals data hv hf =>
      .of_branchExchange ((Midway.start s).loadedRegs (ldmRestriction_eq_none hr) _ hv) hf

theorem execLdmPcRet_ends {am : BlockMode} {w : Bool} {rn : Reg} {list : BitVec 15}
    (h : execLdmPcRet c am w rn list s = .next t) : Ends true true true s t :=
  conditional_ends h fun hb => by
    split at hb; · cases hb
    · cases hb
    next hr =>
    exact loadRegs_pc_ends hb fun vals data hv hf =>
      .of_returnTo ((Midway.start s).loadedRegs (ldmRestriction_eq_none hr) _ hv) (by simp) hf

theorem execLdmUser_ends {am : BlockMode} {rn : Reg} {list : BitVec 15} (h : execLdmUser c am rn list s = .next t) :
    Ends flags clearsQ toPc s t :=
  conditional_ends h fun hb => by
    split at hb; · cases hb
    next hu =>
    split at hb; · cases hb
    obtain ⟨u, hl, rfl⟩ := remembering_next hb
    obtain ⟨vals, hv, he⟩ := loadRegs_next hl
    have hv : ∀ p ∈ vals, p.1 ≠ 15#4 := fun p hp => ne_pc_of_mem_listRegs (hv p hp)
    exact .of_remembering ((Midway.start s).setBankRegs (fun _ => rfl) hv) hu he

theorem execStm_ends {am : BlockMode} {w : Bool} {rn : Reg} {list : BitVec 16}
    (h : execStm c am w rn list s = .next t) :
    Ends flags clearsQ toPc s t :=
  conditional_ends h fun hb => by
    split at hb; · cases hb
    next hr =>
    obtain ⟨_, rfl, ha | hd⟩ := storeRegs_next hb
    · exact .of_advance (((Midway.start s).storeBlock ..).writeBack (fun _ => stmRestriction_eq_none hr) _) ha
    · exact .of_dataAbort ((Midway.start s).storeBlock ..) hd

theorem execStmUser_ends {am : BlockMode} {rn : Reg} {list : BitVec 16} (h : execStmUser c am rn list s = .next t) :
    Ends flags clearsQ toPc s t :=
  conditional_ends h fun hb => by
    split at hb; · cases hb
    next hu =>
    split at hb; · cases hb
    obtain ⟨u, hl, rfl⟩ := remembering_next hb
    obtain ⟨_, rfl, he⟩ := storeRegs_next hl
    exact .of_remembering ((Midway.start s).storeBlock ..) hu he

theorem cpInstr_ends {c : Option Cond} {named : List Reg} {p : BitVec 4} {bits : Word} {body : State → Result}
    (h : cpInstr c named p bits s body = .next t)
    (hbody : body (s.withUserXfer false) = .next t → Ends flags clearsQ toPc s t) : Ends flags clearsQ toPc s t := by
  rcases cpInstr_next h with ⟨_, _, _, hn, rfl⟩ | ⟨_, ⟨_, hb⟩ | ⟨_, rfl⟩⟩
  · exact .advanced hn
  · exact hbody hb
  · exact .of_takeException (.start s) _

theorem cpData_ends {c : Option Cond} {p : BitVec 4} {bits : Word} (h : cpData c p bits s = .next t) :
    Ends flags clearsQ toPc s t :=
  cpInstr_ends h fun hb => .of_advance ((Midway.start s).setCp ..) hb

theorem cpToArm_ends {c : Option Cond} {rd : Reg} {p : BitVec 4} {bits : Word} (h : cpToArm c rd p bits s = .next t) :
    Ends (rd == 15#4) clearsQ toPc s t :=
  cpInstr_ends h fun hb => by
    split at hb
    · next hrd =>
      subst hrd
      exact .of_advance_withCpsr ((Midway.start s).setCp ..) (.withNZCV ..) (Psr.t_setTopFour ..) hb
    · next hrd => exact .of_advance (((Midway.start s).setCp ..).setReg hrd _) hb

theorem cpFromArm_ends {c : Option Cond} {rd : Reg} {p : BitVec 4} {bits : Word}
    (h : cpFromArm c rd p bits s = .next t) : Ends flags clearsQ toPc s t :=
  cpInstr_ends h fun hb => by
    split at hb
    · cases hb
    · exact .of_advance ((Midway.start s).setCp ..) hb

theorem cpTransfer_ends {load : Bool} {c : Option Cond} {ix : IndexMode} {u : Bool} {rn : Reg} {offset : Word}
    {p : BitVec 4} {bits : Word} (h : cpTransfer load c ix u rn offset p bits s = .next t) :
    Ends flags clearsQ toPc s t := by
  rcases cpTransfer_next h with ⟨_, _, _, hn, rfl⟩ | rfl | ⟨hrn, _, addr, rfl, ha | hd⟩
  · exact .advanced hn
  · exact .of_takeException (.start s) _
  · exact .of_advance (((Midway.start s).cpWords ..).writeBack hrn _) ha
  · exact .of_dataAbort ((Midway.start s).cpWords ..) hd

/-- The link of BL and BLX (R221). -/
theorem Midway.linked {u : State} (h : Midway s u) : Midway s (linked u) := h.setReg (by decide) _

theorem execB_ends {imm : BitVec 24} (h : execB c imm s = .next t) : Ends flags clearsQ true s t :=
  conditional_ends h (.of_branchTo (.start s))

theorem execBl_ends {imm : BitVec 24} (h : execBl c imm s = .next t) : Ends flags clearsQ true s t :=
  conditional_ends h (.of_branchTo (Midway.start s).linked)

theorem execBx_ends {rm : Reg} (h : execBx c rm s = .next t) : Ends flags clearsQ true s t :=
  conditional_ends h (.of_branchExchange (.start s))

theorem execBlxReg_ends {rm : Reg} (h : execBlxReg c rm s = .next t) : Ends flags clearsQ true s t :=
  conditional_ends h fun hb => by
    split at hb
    · cases hb
    · exact .of_branchExchange (Midway.start s).linked hb

theorem execBlxLabel_ends {hbit : Bool} {imm : BitVec 24} (h : execBlxLabel hbit imm s = .next t) :
    Ends flags clearsQ true s t := by
  obtain ⟨_, hb⟩ := always_next h
  injection hb with ht
  subst ht
  refine .branch ((Midway.start s).linked.moved.withCpsr _ |>.withPc _) (.withT ..) (fun hT => ?_) rfl rfl
  simp at hT

theorem execBkpt_ends {imm : BitVec 16} (h : execBkpt imm s = .next t) : Ends flags clearsQ toPc s t :=
  .of_raise (.start s) (always_next h).2

theorem execNop_ends (h : execNop s = .next t) : Ends flags clearsQ toPc s t :=
  .of_advance (.start s) (always_next h).2

theorem execMsrCpsrReg_ends {fields : BitVec 4} {rm : Reg} (h : execMsrCpsrReg c fields rm s = .next t) :
    Ends (fields.getLsbD 3) (fields.getLsbD 3) toPc s t :=
  conditional_ends h fun hb => by
    split at hb
    · cases hb
    · exact msrCpsr_ends hb

theorem execMsrSpsrReg_ends {fields : BitVec 4} {rm : Reg} (h : execMsrSpsrReg c fields rm s = .next t) :
    Ends flags clearsQ toPc s t :=
  conditional_ends h fun hb => by
    split at hb
    · cases hb
    · exact msrSpsr_ends hb

end Frames

/-- How every instruction that answers a next state ends: what it may do to flags, Q and R15 is what its kind says
(R28, R31, R32). -/
theorem exec_ends {i : Instr} {s t : State} (h : exec i s = .next t) :
    Ends i.writesFlags i.mayClearQ i.writesPc s t := by
  cases i with
  | andImm | andShift | andReg | eorImm | eorShift | eorReg | subImm | subShift | subReg | rsbImm | rsbShift | rsbReg
  | addImm | addShift | addReg | adcImm | adcShift | adcReg | sbcImm | sbcShift | sbcReg | rscImm | rscShift | rscReg
  | orrImm | orrShift | orrReg | movImm | movShift | movReg | bicImm | bicShift | bicReg | mvnImm | mvnShift | mvnReg =>
    exact dataProcessing_ends h
  | tstImm | tstShift | tstReg | teqImm | teqShift | teqReg | cmpImm | cmpShift | cmpReg | cmnImm | cmnShift | cmnReg =>
    exact compare_ends h
  | mul | mla => exact registersOnly_writeProduct_ends h
  | umull | umlal | smull | smlal | smlalxy => exact registersOnly_writeLong_ends h
  | qadd | qsub | qdadd | qdsub => exact registersOnly_writeSaturated_ends h
  | smlaxy | smlawy => exact registersOnly_writeAccumulated_ends h
  | smulwy | smulxy | clz | mrsCpsr => exact registersOnly_setReg_ends h
  | mrsSpsr => exact execMrsSpsr_ends h
  | msrCpsrReg => exact execMsrCpsrReg_ends h
  | msrCpsrImm => exact conditional_ends h msrCpsr_ends
  | msrSpsrReg => exact execMsrSpsrReg_ends h
  | msrSpsrImm => exact conditional_ends h msrSpsr_ends
  | swp | swpb => exact swap_ends h
  | ldrhImm | ldrhImmPost | ldrhReg | ldrhRegPost | ldrsbImm | ldrsbImmPost | ldrsbReg | ldrsbRegPost | ldrshImm
  | ldrshImmPost | ldrshReg | ldrshRegPost | strhImm | strhImmPost | strhReg | strhRegPost | ldrtImm | ldrtReg
  | ldrbtImm | ldrbtReg | strtImm | strtReg | strbtImm | strbtReg | ldrPcImm | ldrPcReg | ldrImm | ldrReg | ldrbImm
  | ldrbReg | strImm | strReg | strbImm | strbReg => exact singleTransfer_ends h
  | ldm => exact execLdm_ends h
  | ldmPc => exact execLdmPc_ends h
  | ldmPcRet => exact execLdmPcRet_ends h
  | ldmUser => exact execLdmUser_ends h
  | stm => exact execStm_ends h
  | stmUser => exact execStmUser_ends h
  | b => exact execB_ends h
  | bl => exact execBl_ends h
  | bx => exact execBx_ends h
  | blxLabel => exact execBlxLabel_ends h
  | blxReg => exact execBlxReg_ends h
  | cdp => exact cpData_ends (c := some _) h
  | cdp2 => exact cpData_ends (c := none) h
  | mrc => exact cpToArm_ends (c := some _) h
  | mrc2 => exact cpToArm_ends (c := none) h
  | mcr => exact cpFromArm_ends (c := some _) h
  | mcr2 => exact cpFromArm_ends (c := none) h
  | ldcOff | ldcPost | ldcUnidx | stcOff | stcPost | stcUnidx => exact cpTransfer_ends (c := some _) h
  | ldc2Off | ldc2Post | ldc2Unidx | stc2Off | stc2Post | stc2Unidx => exact cpTransfer_ends (c := none) h
  | nop => exact execNop_ends h
  | bkpt imm => exact execBkpt_ends (imm := imm) h
  | swi | undefReg | undefImm => exact conditional_ends h (.of_raise (.start s))

/-! ## The invariant -/

/-- The exception entry keeps the invariant: it needs of the state before it only what the entry does not write. -/
theorem inv_takeException (e : Exc) (b : Bool) {u : State} (hc : Psr.clean u.cpsr) (hs : u.spsr.Clean)
    (hm : Memory.wf u.mem = true) (hw : AddrSet.wf u.written = true) :
    ((takeException e u).withUserXfer b).Inv := by
  have hset := hs.set hc e.bank
  have hbank : ((takeException e u).withUserXfer b).bank = e.bank := by simp [State.bank]
  exact
    { mode := by simp
      cpsr := by simpa [Psr.clean] using hc
      fiq := hset .fiq _ rfl
      irq := hset .irq _ rfl
      svc := hset .svc _ rfl
      abt := hset .abt _ rfl
      und := hset .und _ rfl
      aligned := fun _ => by simp
      mem := by simpa using hm
      written := by simpa using hw
      transfer := fun _ => hbank ▸ e.bank_ne_usr }

/-- What is left to show of the invariant after an instruction that took no exception. -/
theorem inv_of_moved {s t : State} (hs : s.Inv) (h : Moved s t) (mode : Psr.legalMode (Psr.mode t.cpsr) = true)
    (cpsr : Psr.clean t.cpsr) (aligned : Psr.t t.cpsr = false → wordAligned t.pc = true)
    (transfer : t.userXfer = true → t.bank ≠ .usr) : t.Inv :=
  have hc := h.spsrClean hs.spsr
  { mode, cpsr, aligned, transfer
    fiq := hc .fiq _ rfl
    irq := hc .irq _ rfl
    svc := hc .svc _ rfl
    abt := hc .abt _ rfl
    und := hc .und _ rfl
    mem := h.mem hs.mem
    written := h.written hs.written }

theorem wordAligned_add_four {a : Word} (h : wordAligned a = true) : wordAligned (a + 4#32) = true := by
  rw [wordAligned_iff] at *
  simp only [BitVec.toNat_add, BitVec.toNat_ofNat]
  omega

/-- Every instruction keeps the invariant. -/
theorem Ends.inv {flags clearsQ toPc : Bool} {s t : State} (h : Ends flags clearsQ toPc s t) (hs : s.Inv) : t.Inv := by
  cases h with
  | sequential moved cpsr thumb next pc xfer =>
    refine inv_of_moved hs moved (cpsr.legal hs.mode) (cpsr.reserved.trans hs.cpsr) (fun hT => ?_) xfer
    exact pc ▸ wordAligned_add_four (hs.aligned (thumb ▸ hT))
  | branch moved cpsr aligned xfer _ =>
    exact inv_of_moved hs moved (cpsr.legal hs.mode) (cpsr.reserved.trans hs.cpsr) aligned (by simp [xfer])
  | returned moved saved legal aligned xfer _ =>
    exact inv_of_moved hs moved legal (hs.spsr _ _ saved) aligned (by simp [xfer])
  | exception e u b moved cpsr entry =>
    subst entry
    exact inv_takeException e b (cpsr ▸ hs.cpsr) (moved.spsrClean hs.spsr) (moved.mem hs.mem)
      (moved.written hs.written)

theorem State.Inv.withLines {s : State} (h : s.Inv) (l : List LineSample) : (s.withLines l).Inv := { h with }

/-- A step takes an exception in the state after the boundary's sample, or executes an instruction there (R27). -/
theorem step_next {s t : State} (h : step s = .next t) :
    (∃ e, t = takeException e s.sampled) ∨ ∃ i, exec i s.sampled = .next t := by
  rcases stepWith_next h with ⟨e, _, rfl⟩ | ⟨_, _, ⟨_, rfl⟩ | ⟨_, i, _, _, _, hi⟩⟩
  · exact .inl ⟨e, rfl⟩
  · exact .inl ⟨_, rfl⟩
  · exact .inr ⟨i, hi⟩

/-- Settles O3: an instruction keeps the invariant however it ends, and so does an exception at the boundary. -/
theorem stepKeepsInvariant : Obligations.StepKeepsInvariant := by
  intro s t hs h
  have hs' : s.sampled.Inv := hs.withLines _
  rcases step_next h with ⟨e, rfl⟩ | ⟨i, hi⟩
  · exact inv_takeException e false hs'.cpsr hs'.spsr hs'.mem hs'.written
  · exact (exec_ends hi).inv hs'

/-- Settles O2: the fields of the reset state, one by one. -/
theorem resetMeetsInvariant : Obligations.ResetMeetsInvariant where
  mode := by decide
  cpsr := by decide
  fiq := by decide
  irq := by decide
  svc := by decide
  abt := by decide
  und := by decide
  aligned := by decide
  mem := by decide
  written := by decide
  transfer := by decide

/-! ## The flags -/

/-- Settles O57: the CPSR after each of the ends of an instruction. -/
theorem flagsChangeOnlyByTheirWriters : Obligations.FlagsChangeOnlyByTheirWriters := by
  intro i s t h
  cases exec_ends h with
  | sequential _ cpsr _ _ _ _ => exact ⟨cpsr.nzcv, cpsr.q⟩
  | branch _ cpsr _ _ _ => exact ⟨cpsr.nzcv, cpsr.q⟩
  | returned _ _ _ _ _ allowed => simp [allowed]
  | exception e u b _ cpsr entry =>
    subst entry
    simp [cpsr, Psr.flags_entered]

/-! ## USER mode -/

/-- The state after an exception entry: the exception's mode at its vector, IRQ disabled, the CPSR saved whole
(R350). -/
theorem takeException_entered (e : Exc) (u : State) :
    Psr.mode (takeException e u).cpsr = e.mode ∧ (takeException e u).pc = e.vector ∧
      Psr.i (takeException e u).cpsr = true ∧ (takeException e u).spsr.get e.bank = some u.cpsr := by simp

/-- Settles O58: a step in USER mode takes an exception, or its instruction ends sequentially or by a branch; USER mode
has no SPSR to return through. -/
theorem userModeLeftByExceptionOnly : Obligations.UserModeLeftByExceptionOnly := by
  intro s t hm h
  have hb : s.sampled.bank = .usr := State.bank_of_user hm
  rcases step_next h with ⟨e, rfl⟩ | ⟨i, hi⟩
  · exact .inl ⟨e, takeException_entered e s.sampled⟩
  cases exec_ends hi with
  | sequential moved cpsr _ _ _ _ =>
    obtain ⟨mode, i, f⟩ := cpsr.user hm
    exact .inr ⟨mode, i, f, moved.spsrUser hb, moved.gpr hb⟩
  | branch moved cpsr _ _ _ =>
    obtain ⟨mode, i, f⟩ := cpsr.user hm
    exact .inr ⟨mode, i, f, moved.spsrUser hb, moved.gpr hb⟩
  | returned _ saved _ _ _ _ =>
    rw [State.savedPsr, hb] at saved
    cases saved
  | exception e u b _ cpsr entry =>
    subst entry
    have he := takeException_entered e u
    rw [cpsr] at he
    exact .inl ⟨e, he⟩

/-! ## Reset -/

/-- Settles O1: the reset state's fields, evaluated. -/
theorem resetState : Obligations.ResetState := by
  unfold Obligations.ResetState
  decide

/-! ## The front of a step (R27) -/

/-- The bytes of a word in memory are decoded as the word is (R63). -/
theorem decodeBytes_ok {m : Memory} {a : Word} {i : Instr} (h : decode (m.load .word a) = .ok i) :
    decodeBytes ((accessBytes .word a).map m.get) = .ok (i, []) := by
  simp only [Memory.load] at h
  simp only [accessBytes, List.map_cons, List.map_nil, decodeBytes, h]

theorem decodeBytes_error {m : Memory} {a : Word} {e : DecodeError} (h : decode (m.load .word a) = .error e) :
    decodeBytes ((accessBytes .word a).map m.get) = .error e := by
  simp only [Memory.load] at h
  simp only [accessBytes, List.map_cons, List.map_nil, decodeBytes, h]

/-- Whether a fetch goes on is a matter of what a boundary's sample does not touch. -/
@[simp] theorem fetch_sampled (s : State) : fetch s.sampled = fetch s := rfl

theorem fetch_abort {s : State} (h : s.abortsAt .word s.pc .fetch s.privileged = true) : fetch s = .abort := by
  simp [fetch, h]

theorem fetch_unmapped {s : State} (h : s.abortsAt .word s.pc .fetch s.privileged = false)
    (hm : s.inMap .word s.pc = false) : fetch s = .fault (.outsideMemMap s.pc) := by
  simp [fetch, h, hm]

theorem fetch_modified {s : State} (h : s.abortsAt .word s.pc .fetch s.privileged = false)
    (hm : s.inMap .word s.pc = true) {a : Nat} (ha : a ∈ accessBytes .word s.pc) (hw : s.written.has a = true) :
    fetch s = .refused .modifiedCode := by
  have : (accessBytes .word s.pc).any s.written.has = true := List.any_eq_true.mpr ⟨a, ha, hw⟩
  simp [fetch, h, hm, this]

theorem fetch_ok {s : State} (h : s.abortsAt .word s.pc .fetch s.privileged = false)
    (hm : s.inMap .word s.pc = true) (hw : ∀ a ∈ accessBytes .word s.pc, s.written.has a = false) :
    fetch s = .ok ((accessBytes .word s.pc).map s.mem.get) := by
  have : (accessBytes .word s.pc).any s.written.has = false := by simpa using hw
  simp [fetch, h, hm, this]

theorem step_thumb {s : State} (hi : s.interrupt = none) (ht : Psr.t s.cpsr = true) :
    step s = .refused .thumbState := by
  simp [step, stepWith, hi, ht]

section FetchOutcomes

variable {s : State} (hi : s.interrupt = none) (ht : Psr.t s.cpsr = false)
include hi ht

theorem step_of_fetch_abort (h : fetch s = .abort) :
    step s = .next (takeException .prefetchAbort s.sampled) := by
  simp [step, stepWith, hi, ht, h, Access.andThen, raise]

theorem step_of_fetch_fault {f : Fault} (h : fetch s = .fault f) : step s = .fault f := by
  simp [step, stepWith, hi, ht, h, Access.andThen]

theorem step_of_fetch_refused {e : Refusal} (h : fetch s = .refused e) : step s = .refused e := by
  simp [step, stepWith, hi, ht, h, Access.andThen]

theorem step_of_decoded {bytes : List Byte} {i : Instr} {rest : List Byte} (h : fetch s = .ok bytes)
    (hd : decodeBytes bytes = .ok (i, rest)) : step s = exec i s.sampled := by
  simp [step, stepWith, hi, ht, h, hd, Access.andThen]

theorem step_of_undecodable {bytes : List Byte} {e : DecodeError} (h : fetch s = .ok bytes)
    (hd : decodeBytes bytes = .error e) : step s = .refused (.undecodable e) := by
  simp [step, stepWith, hi, ht, h, hd, Access.andThen]

end FetchOutcomes

/-- Settles O4: the fetch succeeds, and its bytes decode as the word at R15. -/
theorem stepRunsDecodedInstruction : Obligations.StepRunsDecodedInstruction :=
  fun _ _ hi ht ha hm hw hd => step_of_decoded hi ht (fetch_ok ha hm hw) (decodeBytes_ok hd)

/-- Settles O6: the checks of a step in their order, up to the decoding of the word. -/
theorem fetchFailuresByName : Obligations.FetchFailuresByName := fun _ hi =>
  ⟨step_thumb hi, fun ht =>
    ⟨fun ha => step_of_fetch_abort hi ht (fetch_abort ha), fun ha =>
      ⟨fun hm => step_of_fetch_fault hi ht (fetch_unmapped ha hm), fun hm =>
        ⟨fun _ hx hw => step_of_fetch_refused hi ht (fetch_modified ha hm hx hw), fun hw _ hd =>
          step_of_undecodable hi ht (fetch_ok ha hm hw) (decodeBytes_error hd)⟩⟩⟩⟩

/-! ## Banked registers (R29) -/

/-- Which register numbers of which banks are one physical register (R29). -/
theorem Bank.index_eq_iff (b b' : Bank) (r r' : Reg) (hr : r ≠ 15#4) (hr' : r' ≠ 15#4) :
    b.index r = b'.index r' ↔
      r = r' ∧ (r.toNat < 8 ∨ (r.toNat < 13 ∧ (b = .fiq ↔ b' = .fiq)) ∨ b = b') := by
  revert r r'
  cases b <;> cases b' <;> decide

theorem Bank.ofMode_eq_fiq_iff (m : BitVec 5) : Bank.ofMode m = .fiq ↔ m = 0b10001#5 := by
  revert m; decide

/-- Two legal modes share a bank when they are equal or are USER and System (R29). -/
theorem Bank.ofMode_eq_iff (m m' : BitVec 5) (h : Psr.legalMode m = true) (h' : Psr.legalMode m' = true) :
    Bank.ofMode m = Bank.ofMode m' ↔
      m = m' ∨ ((m = 0b10000#5 ∨ m = 0b11111#5) ∧ (m' = 0b10000#5 ∨ m' = 0b11111#5)) := by
  revert m m'; decide

/-- Settles O10: the table by banks, and which bank each mode has. -/
theorem bankedRegisterTable : Obligations.BankedRegisterTable := by
  refine ⟨fun m m' r r' hm hm' hr hr' => ?_, fun p => rfl⟩
  rw [Bank.index_eq_iff _ _ r r' hr hr', Bank.ofMode_eq_fiq_iff, Bank.ofMode_eq_fiq_iff,
    Bank.ofMode_eq_iff m m' hm hm']

/-! ## Conditions -/

/-- The frame of every conditional instruction (R27 step 5). -/
theorem exec_conditional {i : Instr} {c : Cond} (h : i.condition = some c) :
    ∃ named body, ∀ s, exec i s = conditional c named s body := by
  cases i with
  | blxLabel | ldc2Off | ldc2Post | ldc2Unidx | stc2Off | stc2Post | stc2Unidx | cdp2 | mrc2 | mcr2 | bkpt | nop =>
    cases h
  | _ => cases h; exact ⟨_, _, fun _ => rfl⟩

/-- Settles O25: a conditional instruction whose condition fails is its sequential advance, refused at the end of the
address space. -/
theorem failedConditionOnlyAdvances : Obligations.FailedConditionOnlyAdvances := by
  intro i c s hi hc
  obtain ⟨named, body, he⟩ := exec_conditional hi
  have hskip : exec i s = advance (s.withUserXfer false) := by simp [he, conditional, hc]
  split
  · next hn => exact hskip.trans (advance_eq _ (decide_eq_true hn))
  · next hn => exact hskip.trans (advance_wrap _ (decide_eq_false hn))

end Sys2Proof.Machine

namespace Sys2Proof

open Sys2Proof.Machine

/-! ## Data processing by name -/

/-- The operation of a name. -/
def DpName.op : DpName → AluOp
  | .logical .and => andOp
  | .logical .eor => eorOp
  | .logical .orr => orrOp
  | .logical .bic => bicOp
  | .logical .mov => movOp
  | .logical .mvn => mvnOp
  | .arithmetic .add => addOp
  | .arithmetic .adc => adcOp
  | .arithmetic .sub => subOp
  | .arithmetic .sbc => sbcOp
  | .arithmetic .rsb => rsbOp
  | .arithmetic .rsc => rscOp

/-- The first operand's register: none for MOV and MVN. -/
def DpName.operand (k : DpName) (rn : Reg) : Option Reg :=
  match k with
  | .logical .mov | .logical .mvn => none
  | .logical .and | .logical .eor | .logical .orr | .logical .bic | .arithmetic _ => some rn

theorem DpName.exec_instr (k : DpName) (c : Cond) (sf : Bool) (rn rd : Reg) (o : Operand2) (s : State) :
    exec (k.instr c sf rn rd o) s = dataProcessing k.op c sf rd (k.operand rn) o s := by
  rcases k with k | k <;> cases k <;> cases o <;> rfl

theorem DpName.named_eq (k : DpName) (rn rd : Reg) (o : Operand2) :
    k.named rn rd o = rd :: (k.operand rn).toList ++ operand2Regs o := by
  rcases k with k | k <;> cases k <;> rfl

/-- A bitwise complement as the exclusive-or that BIC and MVN are written with. -/
theorem allOnes_xor (b : Word) : 0xFFFFFFFF#32 ^^^ b = ~~~b := BitVec.allOnes_xor

/-- A complement is one less than the negation, in signed values modulo 2^32. -/
theorem ofInt_toInt_not (a b : Word) (c : Int) :
    BitVec.ofInt 32 (a.toInt + (~~~b).toInt + c) = BitVec.ofInt 32 (a.toInt - b.toInt - (1 - c)) := by
  have hb : BitVec.ofInt 32 ((~~~b).toInt) = BitVec.ofInt 32 (-b.toInt - 1) := by
    rw [Int.sub_eq_add_neg, BitVec.ofInt_add, BitVec.ofInt_neg, BitVec.ofInt_toInt, BitVec.ofInt_toInt,
      BitVec.not_eq_neg_add, BitVec.sub_eq_add_neg]
    rfl
  rw [show a.toInt - b.toInt - (1 - c) = a.toInt + (-b.toInt - 1) + c by omega]
  simp only [BitVec.ofInt_add, hb]

/-- The result of a data-processing instruction is the action of its name (R140, R141, R162 to R167, R202 to R205). -/
theorem DpName.aluResult_result (k : DpName) (rn : Reg) (o : Operand2) (s : State) :
    (aluResult k.op (k.operand rn) o s).result = k.result rn o s := by
  rcases k with k | k
  · cases k
    case bic | mvn =>
      simp only [aluResult, DpName.op, DpName.operand, DpName.result, LogicalName.value, bicOp, mvnOp, logicalOp,
        firstOperand, allOnes_xor]
    all_goals rfl
  · simp only [aluResult, DpName.operand, DpName.result, firstOperand]
    cases k <;> simp only [DpName.op, addOp, adcOp, subOp, sbcOp, rsbOp, rscOp, arithmeticOp, ArithmeticName.exact,
      addWithCarry_exact]
    case add => simp
    case sub | sbc | rsb | rsc =>
      simp only [ofInt_toInt_not, Bool.toNat_true, Int.natCast_one, Int.sub_self, Int.sub_zero]

/-- Settles O23: with R15 as destination and no S, the frame ends in a branch to the result. -/
theorem dataProcessingToPcBranches : Obligations.DataProcessingToPcBranches := by
  intro k c rn o s hs ho
  rw [DpName.named_eq] at hs
  obtain ⟨hc, hm⟩ := (s.starts_iff c _).mp hs
  rw [DpName.exec_instr, dataProcessing, conditional_eq c _ s _ hc hm]
  simp only [namesPc, ho, Bool.false_and, Bool.false_eq_true, if_false, writeResult, if_true, aluResult_withUserXfer,
    DpName.aluResult_result, branchTo, wordAligned_iff]
  rfl

end Sys2Proof

namespace Sys2Proof.Machine

/-! ## The end of the address space (R28) -/

/-- An instruction that has left R15 as it was cannot go on sequentially from the last word. -/
theorem advance_wrap_of_pc {s u : State} (h : s.hasNext = false) (hpc : u.pc = s.pc) :
    advance u = .refused .sequentialWrap :=
  advance_wrap u (by rw [State.hasNext, hpc]; exact h)

/-- An instruction that may name some registers may name fewer (R403). -/
theorem State.starts_of_subset {s : State} {c : Cond} {l l' : List Reg} (h : s.starts c l = true) (hl : l' ⊆ l) :
    s.starts c l' = true := by
  rw [State.starts_iff] at *
  refine ⟨h.1, ?_⟩
  have hm := h.2
  simp only [State.mayName, Bool.not_eq_true', Bool.and_eq_false_iff, List.any_eq_false] at hm ⊢
  exact hm.imp id fun hb r hr => hb r (hl hr)

theorem conditional_starts {c : Cond} {named : List Reg} {s : State} (h : s.starts c named = true)
    (body : State → Result) : conditional c named s body = body (s.withUserXfer false) :=
  have ⟨hc, hm⟩ := (s.starts_iff c named).mp h
  conditional_eq c named s body hc hm

/-- A mode that is not of the User bank has an SPSR (R40). -/
theorem State.savedPsr_of_bank (s : State) (h : s.bank ≠ .usr) : ∃ saved, s.savedPsr = some saved := by
  unfold State.savedPsr
  cases hb : s.bank
  · exact absurd hb h
  all_goals exact ⟨_, rfl⟩

section Wrap

variable {s : State} {c : Cond}

theorem dataProcessing_wrap {op : AluOp} {sf : Bool} {rd : Reg} {rn : Option Reg} {o : Operand2}
    (hn : s.hasNext = false) (hs : s.starts c (rd :: rn.toList ++ operand2Regs o) = true)
    (hp : namesPc (rd :: rn.toList ++ operand2Regs o) o = false) (hd : rd ≠ 15#4) :
    dataProcessing op c sf rd rn o s = .refused .sequentialWrap := by
  rw [dataProcessing, conditional_starts hs]
  simp only [hp, Bool.false_eq_true, if_false, writeResult, hd]
  refine advance_wrap_of_pc hn ((State.setReg_pc _ _ _ hd).trans ?_)
  split <;> rfl

theorem compare_wrap {op : AluOp} {rn : Reg} {o : Operand2} (hn : s.hasNext = false)
    (hs : s.starts c (rn :: operand2Regs o) = true) (hp : namesPc (rn :: operand2Regs o) o = false) :
    compare op c rn o s = .refused .sequentialWrap := by
  rw [compare, conditional_starts hs]
  simp only [hp, Bool.false_eq_true, if_false]
  exact advance_wrap_of_pc hn rfl

theorem registersOnly_wrap {named : List Reg} {clash : Bool} {effect : State → State} (hn : s.hasNext = false)
    (hs : s.starts c named = true) (hp : 15#4 ∉ named) (hk : clash = false)
    (hpc : (effect (s.withUserXfer false)).pc = s.pc) :
    registersOnly c named clash s effect = .refused .sequentialWrap := by
  have hp : named.contains 15#4 = false := by simpa using hp
  rw [registersOnly, conditional_starts hs]
  simp only [hp, hk, Bool.false_eq_true, if_false]
  exact advance_wrap_of_pc hn hpc

theorem writeProduct_pc (sf : Bool) {rd : Reg} (h : rd ≠ 15#4) (v : Word) (s : State) :
    (writeProduct sf rd v s).pc = s.pc := by
  rw [writeProduct_eq]; exact s.setReg_pc rd v h

theorem writeLong_pc (sf : Bool) {hi lo : Reg} (hh : hi ≠ 15#4) (hl : lo ≠ 15#4) (v : BitVec 64) (s : State) :
    (writeLong sf hi lo v s).pc = s.pc := by
  rw [writeLong_eq]; exact (State.setReg_pc _ lo _ hl).trans (s.setReg_pc hi _ hh)

theorem writeSaturated_pc {rd : Reg} (h : rd ≠ 15#4) (x : Int) (q : Bool) (s : State) :
    (writeSaturated rd x q s).pc = s.pc := by
  rw [writeSaturated_eq]; exact s.setReg_pc rd _ h

theorem writeAccumulated_pc {rd : Reg} (h : rd ≠ 15#4) (x : Int) (s : State) :
    (writeAccumulated rd x s).pc = s.pc := by
  rw [writeAccumulated_eq]; exact s.setReg_pc rd _ h

theorem execMrsSpsr_wrap {rd : Reg} (hn : s.hasNext = false) (hs : s.starts c [rd] = true) (hrd : rd ≠ 15#4)
    (hb : s.bank ≠ .usr) : execMrsSpsr c rd s = .refused .sequentialWrap := by
  obtain ⟨saved, hsaved⟩ := s.savedPsr_of_bank hb
  have hsaved : (s.withUserXfer false).savedPsr = some saved := hsaved
  rw [execMrsSpsr, conditional_starts hs]
  simp only [hrd, if_false, hsaved]
  exact advance_wrap_of_pc hn (State.setReg_pc _ _ _ hrd)

theorem swap_wrap {z : Size} {rn rd rm : Reg} (hn : s.hasNext = false) (hs : s.starts c [rn, rd, rm] = true)
    (hp : 15#4 ∉ [rn, rd, rm]) (hk : (rn == rm || rn == rd) = false)
    (hr : s.canAccess z (s.reg rn) .read s.privileged = true)
    (hw : s.canAccess z (s.reg rn) .write s.privileged = true) :
    swap z c rn rd rm s = .refused .sequentialWrap := by
  simp only [List.mem_cons, List.not_mem_nil, or_false, not_or, eq_comm (a := 15#4)] at hp
  obtain ⟨hrn, hrd, hrm⟩ := hp
  simp only [Bool.or_eq_false_iff, beq_eq_false_iff_ne] at hk
  rw [swap, conditional_starts hs, if_neg (by simp [hrn, hrd, hrm]), if_neg (by simp [hk])]
  rw [memRead_eq _ z _ _ (by exact hr), Access.andThen, memWrite_eq _ z _ _ _ (by exact hw), Access.andThen]
  exact advance_wrap_of_pc hn (State.setReg_pc _ _ _ hrd)

/-! ### MSR -/

theorem msrCpsr_wrap {fields : BitVec 4} {operand new : Word} (hn : s.hasNext = false) (hf : fields ≠ 0#4)
    (hfree : msrReservedFree fields operand)
    (hT : s.privileged = true → fields.getLsbD 0 = true → operand.getLsbD 5 = false)
    (hnew : Merges new s.cpsr operand (msrWritesCpsr s fields)) (hl : Psr.legalMode (Psr.mode new) = true) :
    msrCpsr fields operand s = .refused .sequentialWrap := by
  have hthumb : (s.privileged && operand &&& Psr.byteMask fields &&& Psr.stateMask != 0#32) = false := by
    cases hp : s.privileged
    · rfl
    · simpa using (msrSetsT_iff fields operand).mpr (hT hp)
  rw [msrCpsr, if_neg hf, if_neg (not_not_intro ((msrReservedFree_iff ..).mp hfree)), if_neg (by simp [hthumb]),
    ← merges_unique hnew (merges_mergePsr_cpsr s fields operand), if_neg (by simp [hl])]
  exact advance_wrap_of_pc hn rfl

theorem msrSpsr_wrap {fields : BitVec 4} {operand : Word} (hn : s.hasNext = false) (hf : fields ≠ 0#4)
    (hfree : msrReservedFree fields operand) (hb : s.bank ≠ .usr) :
    msrSpsr fields operand s = .refused .sequentialWrap := by
  obtain ⟨saved, hsaved⟩ := s.savedPsr_of_bank hb
  rw [msrSpsr, if_neg hf, if_neg (not_not_intro ((msrReservedFree_iff ..).mp hfree))]
  simp only [hsaved]
  exact advance_wrap_of_pc hn rfl

/-- An MSR to the CPSR that starts and does not name R15 (R147, R149). -/
theorem exec_toCpsr {o : MsrOperand} {fields : BitVec 4} (hs : s.starts c o.named = true) (hp : 15#4 ∉ o.named) :
    exec (o.toCpsr c fields) s = msrCpsr fields (o.value s) (s.withUserXfer false) := by
  cases o with
  | reg rm =>
    have hrm : rm ≠ 15#4 := fun h => hp (h ▸ List.mem_cons_self ..)
    exact (conditional_starts hs _).trans (if_neg hrm)
  | imm rot v => exact conditional_starts hs _

/-- An MSR to the SPSR that starts and does not name R15 (R148, R150). -/
theorem exec_toSpsr {o : MsrOperand} {fields : BitVec 4} (hs : s.starts c o.named = true) (hp : 15#4 ∉ o.named) :
    exec (o.toSpsr c fields) s = msrSpsr fields (o.value s) (s.withUserXfer false) := by
  cases o with
  | reg rm =>
    have hrm : rm ≠ 15#4 := fun h => hp (h ▸ List.mem_cons_self ..)
    exact (conditional_starts hs _).trans (if_neg hrm)
  | imm rot v => exact conditional_starts hs _

end Wrap

/-! ### Single transfers that may be made -/

/-- Every single-register load and store is the one frame (R240). -/
theorem exec_transfer {i : Instr} {t : Transfer} (h : i.transfer = some t) (s : State) :
    exec i s = singleTransfer t.op t.c t.ix t.u t.rn t.rd t.off s := by
  cases i with
  | ldrhImm | ldrhImmPost | ldrhReg | ldrhRegPost | ldrsbImm | ldrsbImmPost | ldrsbReg | ldrsbRegPost | ldrshImm
  | ldrshImmPost | ldrshReg | ldrshRegPost | strhImm | strhImmPost | strhReg | strhRegPost | ldrtImm | ldrtReg
  | ldrbtImm | ldrbtReg | strtImm | strtReg | strbtImm | strbtReg | ldrPcImm | ldrPcReg | ldrImm | ldrReg | ldrbImm
  | ldrbReg | strImm | strReg | strbImm | strbReg => cases h; rfl
  | _ => cases h

theorem offsetValue_withUserXfer (o : Offset) (s : State) (b : Bool) :
    offsetValue o (s.withUserXfer b) = offsetValue o s := by cases o <;> rfl

namespace Transfer

variable {t : Transfer} {s : State}

theorem index_eq (t : Transfer) (s : State) : indexed t.u (s.reg t.rn) (offsetValue t.off s) = t.index s := rfl

theorem address_eq (t : Transfer) (s : State) : transferAddress t.ix (s.reg t.rn) (t.index s) = t.address s := by
  unfold transferAddress Transfer.address
  cases t.ix <;> rfl

/-- The register restrictions of R246, as the machine checks them. -/
theorem restriction_of_allowed (h : t.allowed = true) :
    singleRestriction t.op (writesBack t.ix) t.rn t.rd (offsetReg t.off) = none := by
  simp only [Transfer.allowed, Bool.and_eq_true, Bool.or_eq_true, bne_iff_ne, beq_iff_eq, ne_eq] at h
  obtain ⟨⟨hbase, hoff⟩, hrd⟩ := h
  unfold singleRestriction
  rw [if_neg, if_neg (by simpa using hoff), if_neg]
  · rcases hrd with (hrd | hop) | hop <;> simp [*, SingleOp.allowsPc]
  · rcases hbase with hix | ⟨⟨hrn, hne⟩, hrm⟩
    · simp [hix, writesBack]
    · simp [hrn, hne, hrm]

theorem base_ne_pc_of_allowed (h : t.allowed = true) (hw : writesBack t.ix = true) : t.rn ≠ 15#4 :=
  (singleRestriction_eq_none (restriction_of_allowed h)).1 hw

theorem rd_ne_pc_of_allowed (h : t.allowed = true) (hl : t.op.isLoad = true) (hop : t.op ≠ .ldrPc) : t.rd ≠ 15#4 :=
  fun he => hop (t.op.eq_ldrPc_of_allowsPc hl ((singleRestriction_eq_none (restriction_of_allowed h)).2 he))

/-- A single transfer that starts and is allowed makes its access (R240). -/
theorem singleTransfer_allowed (hs : s.starts t.c t.named = true) (ha : t.allowed = true) :
    singleTransfer t.op t.c t.ix t.u t.rn t.rd t.off s =
      singleAccess t.op t.rn t.rd (writesBack t.ix) (t.index s) (t.address s) (s.withUserXfer false) := by
  rw [singleTransfer, conditional_starts (by exact hs)]
  simp only [restriction_of_allowed ha, State.withUserXfer_reg, offsetValue_withUserXfer, index_eq, address_eq]

end Transfer

theorem singleAccess_load {op : SingleOp} {rn rd : Reg} {wb : Bool} {index address : Word} {s : State}
    (hl : op.isLoad = true) (h : s.canAccess op.size address .read (op.privilege s) = true) :
    singleAccess op rn rd wb index address s =
      finishLoad op rd (s.mem.load op.size address) (s.writeBack wb rn index) := by
  rw [singleAccess, if_pos hl, memRead_eq _ _ _ _ h]
  rfl

theorem singleAccess_store {op : SingleOp} {rn rd : Reg} {wb : Bool} {index address : Word} {s : State}
    (hl : op.isLoad = false) (h : s.canAccess op.size address .write (op.privilege s) = true) :
    singleAccess op rn rd wb index address s =
      advance ((s.stored op.size address (s.storedReg s.bank rd)).writeBack wb rn index) := by
  rw [singleAccess, if_neg (by simp [hl]), memWrite_eq _ _ _ _ _ h]
  rfl

theorem singleAccess_wrap {op : SingleOp} {rn rd : Reg} {wb : Bool} {index address : Word} {s : State}
    (hn : s.hasNext = false) (hrn : wb = true → rn ≠ 15#4) (hop : op ≠ .ldrPc)
    (hrd : op.isLoad = true → rd ≠ 15#4)
    (h : s.canAccess op.size address (if op.isLoad then .read else .write) (op.privilege s) = true) :
    singleAccess op rn rd wb index address s = .refused .sequentialWrap := by
  cases hl : op.isLoad
  · rw [hl] at h
    rw [singleAccess_store hl h]
    exact advance_wrap_of_pc hn (State.writeBack_pc _ wb rn _ hrn)
  · rw [hl] at h
    rw [singleAccess_load hl h, finishLoad, if_neg hop]
    exact advance_wrap_of_pc hn ((State.setReg_pc _ _ _ (hrd hl)).trans (State.writeBack_pc _ wb rn _ hrn))

/-- The T forms are made without privilege (R247). -/
theorem SingleOp.privilege_eq (op : SingleOp) (s : State) :
    op.privilege s = if op ∈ [.ldrt, .ldrbt, .strt, .strbt] then false else s.privileged := by
  cases op <;> rfl

/-! ### Blocks that may be transferred -/

/-- A block of loads whose every access may be made (R282). -/
theorem loadRegs_eq {am : BlockMode} {wb : Bool} {rn : Reg} {regs : List Reg} {count : Nat} {b : Bank} {s : State}
    (h : s.canAccessWords .read (blockStart am (s.reg rn) count) regs.length = true)
    (k : List (Reg × Word) → Result) :
    loadRegs am wb rn regs count b s k = k (loadedPairs s (blockStart am (s.reg rn) count) regs) := by
  rw [loadRegs, loadBlock_eq s _ regs h]
  rfl

/-- A block of stores whose every access may be made (R286). -/
theorem storeRegs_eq {am : BlockMode} {wb : Bool} {rn : Reg} {words : List Word} {s : State}
    (h : s.canAccessWords .write (blockStart am (s.reg rn) words.length) words.length = true)
    (k : State → Result) :
    storeRegs am wb rn words s k = k (storeBlock s (blockStart am (s.reg rn) words.length) words).1 := by
  rw [storeRegs, storeBlock_eq s _ words h]

theorem mem_of_mem_loadedPairs {s : State} {a : Word} {regs : List Reg} {p : Reg × Word}
    (h : p ∈ loadedPairs s a regs) : p.1 ∈ regs :=
  loadedPairs_fst s a regs ▸ List.mem_map_of_mem h

/-- A load whose base is not R15 and, with `!`, not in the list (R288 (b), (c)). -/
theorem ldmRestriction_of_allowed {n : Nat} {w : Bool} {rn : Reg} {list : BitVec n} (hrn : rn ≠ 15#4)
    (hw : w = true → inList list rn = false) : ldmRestriction w rn list = none := by
  rw [ldmRestriction, if_neg hrn, if_neg]
  simpa using hw

/-- A store whose base is not R15 and, with `!`, not in the list or its first register (R288 (b), (d)). -/
theorem stmRestriction_of_allowed {w : Bool} {rn : Reg} {list : BitVec 16} (hrn : rn ≠ 15#4)
    (hw : w = true → inList list rn = true → listRank list rn = 0) : stmRestriction w rn list = none := by
  rw [stmRestriction, if_neg hrn, if_neg]
  simp only [Bool.and_eq_true, bne_iff_ne, not_and, Classical.not_not]
  rintro ⟨h1, h2⟩
  obtain ⟨hlt, he⟩ := listRegs_listRank (by decide) list rn h2
  simp only [hw h1 h2] at hlt he
  rw [List.head?_eq_getElem?, List.getElem?_eq_getElem hlt, he]

theorem inList_withoutPc (list : BitVec 15) (r : Reg) : (0b0#1 ++ list).getLsbD r.toNat = inList list r := by
  rw [Bool.eq_iff_iff, inList, ← mem_listRegs (by decide), ← mem_listRegs (by decide), listRegs_withoutPc]

section BlockWrap

variable {s : State} {c : Cond} {am : BlockMode} {w : Bool} {rn : Reg}

theorem execLdm_wrap {list : BitVec 15} (hn : s.hasNext = false) (hs : s.starts c (rn :: listRegs list) = true)
    (hrn : rn ≠ 15#4) (hw : w = true → inList list rn = false)
    (h : s.canAccessWords .read (blockStart am (s.reg rn) (listRegs list).length) (listRegs list).length = true) :
    execLdm c am w rn list s = .refused .sequentialWrap := by
  rw [execLdm, conditional_starts hs]
  simp only [ldmRestriction_of_allowed hrn hw]
  rw [loadRegs_eq (by exact h)]
  exact advance_wrap_of_pc hn ((Midway.start s).loadedRegs hrn _ fun p hp =>
    ne_pc_of_mem_listRegs (mem_of_mem_loadedPairs hp)).pc

theorem execLdmUser_wrap {list : BitVec 15} (hn : s.hasNext = false) (hs : s.starts c (rn :: listRegs list) = true)
    (hrn : rn ≠ 15#4) (hb : s.bank ≠ .usr)
    (h : s.canAccessWords .read (blockStart am (s.reg rn) (listRegs list).length) (listRegs list).length = true) :
    execLdmUser c am rn list s = .refused .sequentialWrap := by
  rw [execLdmUser, conditional_starts hs, if_neg (by exact hb)]
  simp only [ldmRestriction_of_allowed (w := false) hrn nofun]
  rw [loadRegs_eq (by exact h), advance_wrap_of_pc hn]
  · rfl
  · exact ((Midway.start s).setBankRegs (fun _ => rfl) fun p hp =>
      ne_pc_of_mem_listRegs (mem_of_mem_loadedPairs hp)).pc

theorem execStm_wrap {list : BitVec 16} (hn : s.hasNext = false) (hs : s.starts c (rn :: listRegs list) = true)
    (hrn : rn ≠ 15#4) (hw : w = true → inList list rn = true → listRank list rn = 0)
    (h : s.canAccessWords .write (blockStart am (s.reg rn) (listRegs list).length) (listRegs list).length = true) :
    execStm c am w rn list s = .refused .sequentialWrap := by
  rw [execStm, conditional_starts hs]
  simp only [stmRestriction_of_allowed hrn hw]
  rw [storeRegs_eq (by rw [List.length_map]; exact h)]
  exact advance_wrap_of_pc hn (((Midway.start s).storeBlock ..).writeBack (fun _ => hrn) _).pc

theorem execStmUser_wrap {list : BitVec 16} (hn : s.hasNext = false) (hs : s.starts c (rn :: listRegs list) = true)
    (hrn : rn ≠ 15#4) (hb : s.bank ≠ .usr)
    (h : s.canAccessWords .write (blockStart am (s.reg rn) (listRegs list).length) (listRegs list).length = true) :
    execStmUser c am rn list s = .refused .sequentialWrap := by
  rw [execStmUser, conditional_starts hs, if_neg (by exact hb)]
  simp only [stmRestriction_of_allowed (w := false) hrn nofun]
  rw [storeRegs_eq (by rw [List.length_map]; exact h), advance_wrap_of_pc hn]
  · rfl
  · exact ((Midway.start s).storeBlock ..).pc

end BlockWrap

/-! ### The families of instructions -/

section Families

variable {s : State} (hn : s.hasNext = false)
include hn

/-- An instruction that does not write R15 answers a next state there by an exception only. -/
theorem exception_of_exec_wrap {i : Instr} {t : State} (hi : i.writesPc = false) (h : exec i s = .next t) :
    ∃ e : Exc, t.pc = e.vector ∧ Psr.mode t.cpsr = e.mode ∧ t.spsr.get e.bank = some s.cpsr := by
  cases exec_ends h with
  | sequential _ _ _ next _ _ => simp [hn] at next
  | branch _ _ _ _ pc => simp [hi] at pc
  | returned _ _ _ _ _ allowed => simp [hi] at allowed
  | exception e u b _ cpsr entry =>
    subst entry
    exact ⟨e, by simp, by simp, by simp [cpsr]⟩

theorem exec_nop_wrap : exec .nop s = .refused .sequentialWrap := by
  show always [] s advance = _
  rw [always_eq _ _ _ (by simp [State.mayName])]
  exact advance_wrap_of_pc hn rfl

theorem exec_forbidsPc_wrap {i : Instr} {c : Cond} (hf : i.forbidsPc = true) (hc : i.condition = some c)
    (hs : s.starts c i.named = true) (hp : 15#4 ∉ i.named) (hk : i.clashes = false)
    (hspsr : ∀ rd, i = .mrsSpsr c rd → s.bank ≠ .usr)
    (hswap : ∀ (z : Size) (rn rd rm : Reg),
      (i, z) ∈ [(Instr.swp c rn rd rm, Size.word), (.swpb c rn rd rm, .byte)] →
      s.canAccess z (s.reg rn) .read s.privileged = true ∧ s.canAccess z (s.reg rn) .write s.privileged = true) :
    exec i s = .refused .sequentialWrap := by
  have ne_pc : ∀ r ∈ i.named, r ≠ 15#4 := fun r hr he => hp (he ▸ hr)
  cases i with
  | mul c' sf rd | mla c' sf rd =>
    cases hc
    exact registersOnly_wrap hn hs hp hk (writeProduct_pc sf (ne_pc rd (by simp [Instr.named])) _ _)
  | umull c' sf hi lo | umlal c' sf hi lo | smull c' sf hi lo | smlal c' sf hi lo =>
    cases hc
    exact registersOnly_wrap hn hs hp hk
      (writeLong_pc sf (ne_pc hi (by simp [Instr.named])) (ne_pc lo (by simp [Instr.named])) _ _)
  | smlalxy c' x y hi lo =>
    cases hc
    exact registersOnly_wrap hn hs hp hk
      (writeLong_pc false (ne_pc hi (by simp [Instr.named])) (ne_pc lo (by simp [Instr.named])) _ _)
  | qadd c' rn rd rm | qsub c' rn rd rm | qdadd c' rn rd rm | qdsub c' rn rd rm =>
    cases hc
    have hsub : [rd, rm, rn] ⊆ [rn, rd, rm] := by simp
    exact registersOnly_wrap hn (State.starts_of_subset hs hsub) (fun h => hp (hsub h)) rfl
      (writeSaturated_pc (ne_pc rd (by simp [Instr.named])) _ _ _)
  | smlaxy c' x y rd | smlawy c' y rd =>
    cases hc
    exact registersOnly_wrap hn hs hp rfl (writeAccumulated_pc (ne_pc rd (by simp [Instr.named])) _ _)
  | smulwy c' y rd | smulxy c' x y rd | clz c' rd | mrsCpsr c' rd =>
    cases hc
    exact registersOnly_wrap hn hs hp rfl (State.setReg_pc _ _ _ (ne_pc rd (by simp [Instr.named])))
  | mrsSpsr c' rd =>
    cases hc
    exact execMrsSpsr_wrap hn hs (ne_pc rd (by simp [Instr.named])) (hspsr rd rfl)
  | swp c' rn rd rm =>
    cases hc
    obtain ⟨hr, hw⟩ := hswap .word rn rd rm (by simp)
    exact swap_wrap hn hs hp hk hr hw
  | swpb c' rn rd rm =>
    cases hc
    obtain ⟨hr, hw⟩ := hswap .byte rn rd rm (by simp)
    exact swap_wrap hn hs hp hk hr hw
  | _ => cases hf

theorem exec_transfer_wrap {i : Instr} {t : Transfer} {kind : AccessKind} {p : Bool} (hi : i.transfer = some t)
    (hop : t.op ≠ .ldrPc) (hs : s.starts t.c t.named = true) (ha : t.allowed = true)
    (hkind : kind = if t.op.isLoad then .read else .write)
    (hprivilege : p = if t.op ∈ [.ldrt, .ldrbt, .strt, .strbt] then false else s.privileged)
    (h : s.canAccess t.op.size (t.address s) kind p = true) : exec i s = .refused .sequentialWrap := by
  rw [exec_transfer hi, Transfer.singleTransfer_allowed hs ha]
  subst hkind
  rw [hprivilege, ← SingleOp.privilege_eq] at h
  exact singleAccess_wrap hn (Transfer.base_ne_pc_of_allowed ha) hop
    (fun hl => Transfer.rd_ne_pc_of_allowed ha hl hop) h

theorem exec_blockTransfer_wrap {i : Instr} {b : BlockTransfer} {kind : AccessKind} (hi : i.blockTransfer = some b)
    (hpc : i.writesPc = false) (hs : s.starts b.c i.named = true) (ha : b.allowed s)
    (hkind : kind = if b.load then .read else .write)
    (h : s.canAccessWords kind (b.start s) (listCount b.list) = true) : exec i s = .refused .sequentialWrap := by
  obtain ⟨hrn, hw, hb⟩ := ha
  subst hkind
  cases i with
  | ldm c am w rn list =>
    cases hi
    simp only [if_true, BlockTransfer.start, listCount, listRegs_withoutPc] at h
    refine execLdm_wrap hn hs hrn (fun hw' => ?_) h
    simpa [hw', inList_withoutPc] using hw
  | ldmUser c am rn list =>
    cases hi
    simp only [if_true, BlockTransfer.start, listCount, listRegs_withoutPc] at h
    exact execLdmUser_wrap hn hs hrn (hb (.inl rfl)) h
  | stm c am w rn list =>
    cases hi
    exact execStm_wrap hn hs hrn (fun h1 h2 => (hw h1 h2).2) h
  | stmUser c am rn list =>
    cases hi
    exact execStmUser_wrap hn hs hrn (hb (.inl rfl)) h
  | ldmPc | ldmPcRet => cases hpc
  | _ => cases hi

end Families

end Sys2Proof.Machine

namespace Sys2Proof

open Sys2Proof.Machine

/-- The operation of a compare. -/
def CompareName.op : CompareName → AluOp
  | .tst => tstOp
  | .teq => teqOp
  | .cmp => cmpOp
  | .cmn => cmnOp

theorem CompareName.exec_instr (k : CompareName) (c : Cond) (rn : Reg) (o : Operand2) (s : State) :
    exec (k.instr c rn o) s = compare k.op c rn o s := by
  cases k <;> cases o <;> rfl

/-- Settles O60: each family reaches its sequential advance with R15 as it was. -/
theorem sequentialWrapRefused : Obligations.SequentialWrapRefused := by
  intro s hn
  refine ⟨fun i t hi h => exception_of_exec_wrap hn hi h, exec_nop_wrap hn, ?dp, ?cmp, ?regs, ?msr, ?single, ?block⟩
  case dp =>
    intro k c sf rn rd o hs hp hd
    rw [DpName.named_eq] at hs hp
    rw [DpName.exec_instr]
    exact dataProcessing_wrap hn hs hp hd
  case cmp =>
    intro k c rn o hs hp
    rw [CompareName.exec_instr]
    exact compare_wrap hn hs hp
  case regs =>
    intro i c hf hc hs hp hk hspsr hswap
    exact exec_forbidsPc_wrap hn hf hc hs hp hk hspsr hswap
  case msr =>
    intro o c fields new hs hp hf hfree
    refine ⟨fun hT hnew hl => ?_, fun hb => ?_⟩
    · exact (exec_toCpsr hs hp).trans (msrCpsr_wrap (s := s.withUserXfer false) hn hf hfree hT hnew hl)
    · exact (exec_toSpsr hs hp).trans (msrSpsr_wrap (s := s.withUserXfer false) hn hf hfree hb)
  case single =>
    intro i t kind p hi hop hs ha hkind hp h
    exact exec_transfer_wrap hn hi hop hs ha hkind hp h
  case block =>
    intro i b kind hi hpc hs ha hkind h
    exact exec_blockTransfer_wrap hn hi hpc hs ha hkind h

end Sys2Proof

/-!
PROOFS. Memory: the little-endian byte order of loads, stores and the fetch; and the accesses that cannot be made
(`AccessFails`), of the single transfers, the swaps and the words of a block.
-/

namespace Sys2Proof.Machine

/-! ## The bytes of an access (R62, R63) -/

/-- The bytes of an access are distinct, also where addresses wrap (R60). -/
theorem byteAddr_eq_iff (a : Word) {j k : Nat} (hj : j < 4) (hk : k < 4) : byteAddr a j = byteAddr a k ↔ j = k :=
  ⟨byteAddr_inj a j k (by omega) (by omega), fun h => h ▸ rfl⟩

theorem Size.bytes_le (z : Size) : z.bytes ≤ 4 := by cases z <;> decide

/-- A store of any size at any address, aligned or not, puts byte number `k` of the value at byte `k` (R62, R67). -/
theorem Memory.get_store (m : Memory) (z : Size) (a v : Word) {k : Nat} (hk : k < z.bytes) :
    (m.store z a v).get (byteAddr a k) = byteOfWord v k := by
  have hk4 : k < 4 := Nat.lt_of_lt_of_le hk z.bytes_le
  have distinct : ∀ j, j < 4 → (byteAddr a k = byteAddr a j ↔ k = j) := fun j hj => byteAddr_eq_iff a hk4 hj
  cases z <;> simp only [Memory.store, Memory.get_put, distinct, Nat.reduceLT] <;> simp only [Size.bytes] at hk
  case byte => simp [show k = 0 by omega]
  case half => rcases (by omega : k = 0 ∨ k = 1) with rfl | rfl <;> rfl
  case word => rcases (by omega : k = 0 ∨ k = 1 ∨ k = 2 ∨ k = 3) with rfl | rfl | rfl | rfl <;> rfl

/-- Two neighbouring bytes of a word are a halfword of it. -/
theorem byteOfWord_append (v : Word) (k : Nat) : byteOfWord v (k + 1) ++ byteOfWord v k = v.extractLsb' (8 * k) 16 :=
  BitVec.extractLsb'_append_extractLsb'_eq_extractLsb' (by omega)

theorem bytesOfWord_wordOfBytes (b0 b1 b2 b3 : Byte) : bytesOfWord (wordOfBytes b0 b1 b2 b3) = [b0, b1, b2, b3] := by
  have h0 : byteOfWord (wordOfBytes b0 b1 b2 b3) 0 = b0 :=
    (extractLsb'_append_low (b3 ++ b2 ++ b1) b0 (by decide)).trans BitVec.extractLsb'_eq_self
  have h1 : byteOfWord (wordOfBytes b0 b1 b2 b3) 1 = b1 :=
    (extractLsb'_append_high (b3 ++ b2 ++ b1) b0 (by decide)).trans <|
      (extractLsb'_append_low (b3 ++ b2) b1 (by decide)).trans BitVec.extractLsb'_eq_self
  have h2 : byteOfWord (wordOfBytes b0 b1 b2 b3) 2 = b2 :=
    (extractLsb'_append_high (b3 ++ b2 ++ b1) b0 (by decide)).trans <|
      (extractLsb'_append_high (b3 ++ b2) b1 (by decide)).trans <|
        (extractLsb'_append_low b3 b2 (by decide)).trans BitVec.extractLsb'_eq_self
  have h3 : byteOfWord (wordOfBytes b0 b1 b2 b3) 3 = b3 :=
    (extractLsb'_append_high (b3 ++ b2 ++ b1) b0 (by decide)).trans <|
      (extractLsb'_append_high (b3 ++ b2) b1 (by decide)).trans <|
        (extractLsb'_append_high b3 b2 (by decide)).trans BitVec.extractLsb'_eq_self
  rw [bytesOfWord, h0, h1, h2, h3]

/-- A load reads back the low bytes of the store of its size at its address (R62, R67). -/
theorem Memory.load_store (m : Memory) (z : Size) (a v : Word) :
    (m.store z a v).load z a = (v.extractLsb' 0 (8 * z.bytes)).setWidth 32 := by
  have byte : ∀ k, k < z.bytes → (m.store z a v).get (byteAddr a k) = byteOfWord v k := fun k => m.get_store z a v
  cases z with
  | byte => rw [Memory.load, byte 0 (by decide)]; rfl
  | half => rw [Memory.load, byte 0 (by decide), byte 1 (by decide), byteOfWord_append]; rfl
  | word =>
    rw [Memory.load, byte 0 (by decide), byte 1 (by decide), byte 2 (by decide), byte 3 (by decide),
      wordOfBytes_byteOfWord]
    simp [Size.bytes]

theorem Memory.load_byte_store_word (m : Memory) (a v : Word) {k : Nat} (hk : k < 4) :
    (m.store .word a v).load .byte (a + BitVec.ofNat 32 k) = (v.extractLsb' (8 * k) 8).setWidth 32 := by
  rw [Memory.load, byteAddr_add, m.get_store .word a v (k := k + 0) hk]
  rfl

theorem Memory.load_half_store_word (m : Memory) (a v : Word) {h : Nat} (hh : h < 2) :
    (m.store .word a v).load .half (a + BitVec.ofNat 32 (2 * h)) = (v.extractLsb' (16 * h) 16).setWidth 32 := by
  have low : 2 * h < Size.word.bytes := show 2 * h < 4 by omega
  have high : 2 * h + 1 < Size.word.bytes := show 2 * h + 1 < 4 by omega
  simp only [Memory.load, byteAddr_add, Nat.add_zero, m.get_store .word a v low, m.get_store .word a v high]
  rw [byteOfWord_append, ← Nat.mul_assoc]

/-- A fetch that succeeds gives the bytes at R15 (R68). -/
theorem fetch_bytes {s : State} {bytes : List Byte} (h : fetch s = .ok bytes) :
    bytes = (accessBytes .word s.pc).map s.mem.get := by
  unfold fetch at h
  split at h; · cases h
  split at h; · cases h
  split at h; · cases h
  injection h with h
  exact h.symm

/-- The bytes of a word access are those of the word that a load reads there, lowest first (R63). -/
theorem map_get_accessBytes_word (m : Memory) (a : Word) :
    (accessBytes .word a).map m.get = bytesOfWord (m.load .word a) :=
  (bytesOfWord_wordOfBytes ..).symm

/-- Settles O39: each width is read off the bytes of the store (`Memory.get_store`), the fetch off those of a load. -/
theorem memoryByteOrder : Obligations.MemoryByteOrder := by
  refine ⟨fun m a v ha => ⟨?word, ?bytes, ?halves⟩, fun m z a v => ⟨?frame, ?back, ?wf⟩, fun s bytes h => ?fetch⟩
  case word => exact m.load_store_word a v ha
  case bytes => exact fun k hk => m.load_byte_store_word a v hk
  case halves => exact fun h hh => m.load_half_store_word a v hh
  case frame => exact fun x hx => m.get_store_of_notMem z a v x hx
  case back => exact m.load_store z a v
  case wf => exact m.wf_store z a v
  case fetch => exact (fetch_bytes h).trans (map_get_accessBytes_word s.mem s.pc)

/-! ## Accesses that cannot be made (R64, R66, R67, R79) -/

/-- What `r` answers when a data access cannot be made, in the order of the checks: the refusal of a misaligned one, the
end of the run outside `MEM_MAP`, and `onAbort` where `ABORTS` says so. -/
structure AccessFails (s : State) (z : Size) (a : Word) (kind : AccessKind) (p : Bool) (onAbort r : Result) : Prop where
  misaligned : z.aligned a = false → r = .refused .misalignedAccess
  unmapped : z.aligned a = true → s.inMap z a = false → r = .fault (.outsideMemMap a)
  aborted : z.aligned a = true → s.inMap z a = true → s.abortsAt z a kind p = true → r = onAbort

namespace AccessFails

variable {s u : State} {z : Size} {a : Word} {kind : AccessKind} {p : Bool} {onAbort r : Result}

/-- To fail as an access does is to answer as its checks answer. -/
theorem of_outcome {α : Type} (v : α) (refused : ∀ e, checked s z a kind p v = .refused e → r = .refused e)
    (fault : ∀ f, checked s z a kind p v = .fault f → r = .fault f)
    (abort : checked s z a kind p v = .abort → r = onAbort) : AccessFails s z a kind p onAbort r where
  misaligned h := refused _ (checked_misaligned s z a kind p v h)
  unmapped h hm := fault _ (checked_unmapped s z a kind p v h hm)
  aborted h hm ha := abort (checked_abort s z a kind p v h hm ha)

/-- Whatever goes on after a checked access fails as the access does. -/
theorem of_checked {α : Type} (v : α) (k : α → Result) :
    AccessFails s z a kind p onAbort ((checked s z a kind p v).andThen onAbort k) :=
  .of_outcome v (fun _ h => by rw [h]; rfl) (fun _ h => by rw [h]; rfl) (fun h => by rw [h]; rfl)

/-- Only the platform's parameters decide whether an access can be made. -/
theorem of_platform (h : AccessFails u z a kind p onAbort r) (hmap : u.memMap = s.memMap)
    (haborts : u.aborts = s.aborts) : AccessFails s z a kind p onAbort r := by
  have mapped : u.mapped = s.mapped := funext fun x => by rw [State.mapped, hmap, State.mapped]
  have inMap : u.inMap z a = s.inMap z a := by rw [State.inMap, mapped, State.inMap]
  have abortsAt : u.abortsAt z a kind p = s.abortsAt z a kind p := by simp only [State.abortsAt, haborts]
  exact ⟨h.misaligned, inMap ▸ h.unmapped, inMap ▸ abortsAt ▸ h.aborted⟩

/-- A user-register transfer fails as its accesses do (R403; log 11). -/
theorem remembering (h : AccessFails s z a kind p onAbort r) :
    AccessFails s z a kind p (remembering onAbort) (remembering r) where
  misaligned ha := by rw [h.misaligned ha]; rfl
  unmapped ha hm := by rw [h.unmapped ha hm]; rfl
  aborted ha hm hab := by rw [h.aborted ha hm hab]

end AccessFails

/-! ## The base register after a Data Abort (R80) -/

theorem State.gprWith_reg (s : State) {r : Reg} (h : r ≠ 15#4) : s.gprWith r (s.reg r) = s.gpr := by
  rw [State.gprWith, State.reg_eq s r h]
  exact Vector.set_getElem_self _

theorem takeException_withUserXfer (e : Exc) (s : State) (b : Bool) :
    takeException e (s.withUserXfer b) = takeException e s := by
  simp only [takeException_eq]
  rfl

theorem dataAbort_withUserXfer (rn : Reg) (wb : Bool) (base final : Word) (s : State) (b : Bool) :
    dataAbort rn wb base final (s.withUserXfer b) = dataAbort rn wb base final s := by
  unfold dataAbort raise
  split
  · rw [takeException_withUserXfer]
  · next h =>
    rw [State.setReg_eq _ rn _ h, State.setReg_eq s rn _ h]
    exact congrArg _ (takeException_withUserXfer .dataAbort (s.withGpr _) b)

/-- A Data Abort writes the base register as `ABORT_BASE` says and is then taken. -/
theorem dataAbort_eq {rn : Reg} (h : rn ≠ 15#4) (wb : Bool) (base final : Word) (s : State) :
    dataAbort rn wb base final s =
      .next (takeException .dataAbort
        (s.withGpr (s.gprWith rn (if wb && Config.abortBaseUpdated then final else base)))) := by
  rw [dataAbort, if_neg h, State.setReg_eq s rn _ h]
  rfl

/-! ## Single transfers -/

theorem singleAccess_fails (op : SingleOp) (rn rd : Reg) (wb : Bool) (index address : Word) (s : State) :
    AccessFails s op.size address (if op.isLoad then .read else .write) (op.privilege s)
      (dataAbort rn wb (s.reg rn) index s) (singleAccess op rn rd wb index address s) := by
  unfold singleAccess
  split
  · exact .of_checked _ _
  · exact .of_checked _ _

/-- A single transfer that aborts leaves its base as `ABORT_BASE` says; a base of R15 is never written back. -/
theorem Transfer.dataAbort_eq {t : Transfer} {s : State} (ha : t.allowed = true) :
    dataAbort t.rn (writesBack t.ix) (s.reg t.rn) (t.index s) s =
      .next (takeException .dataAbort
        { s with gpr := if Config.abortBaseUpdated then t.baseWritten s else s.gpr }) := by
  by_cases hrn : t.rn = 15#4
  · have offset : t.ix = .offset := by
      cases hix : t.ix
      · rfl
      all_goals exact absurd hrn (base_ne_pc_of_allowed ha (by rw [hix]; rfl))
    rw [dataAbort, if_pos hrn, Transfer.baseWritten, if_pos offset, ite_self]
    rfl
  · have base : s.gprWith t.rn (s.reg t.rn) = s.gpr := s.gprWith_reg hrn
    rw [Machine.dataAbort_eq hrn, Transfer.baseWritten]
    cases hix : t.ix <;> cases Config.abortBaseUpdated <;> simp [writesBack, base, State.withGpr]

theorem exec_transfer_fails {i : Instr} {t : Transfer} {s : State} (hi : i.transfer = some t)
    (hs : s.starts t.c t.named = true) (ha : t.allowed = true) :
    AccessFails s t.op.size (t.address s) (if t.op.isLoad then .read else .write) (t.op.privilege s)
      (.next (takeException .dataAbort
        { s with gpr := if Config.abortBaseUpdated then t.baseWritten s else s.gpr }))
      (exec i s) := by
  have fails := singleAccess_fails t.op t.rn t.rd (writesBack t.ix) (t.index s) (t.address s) (s.withUserXfer false)
  rw [State.withUserXfer_reg, dataAbort_withUserXfer, Transfer.dataAbort_eq ha] at fails
  rw [exec_transfer hi, Transfer.singleTransfer_allowed hs ha]
  exact fails.of_platform rfl rfl

/-! ## Swaps -/

section Swap

variable {z : Size} {c : Cond} {rn rd rm : Reg} {s : State}

/-- A swap that starts and is allowed: the read, then the write (R300). -/
theorem swap_allowed (hs : s.starts c [rn, rd, rm] = true) (hp : 15#4 ∉ [rn, rd, rm]) (hk : rn ≠ rm ∧ rn ≠ rd) :
    swap z c rn rd rm s =
      (memRead (s.withUserXfer false) z (s.reg rn) s.privileged).andThen
        (.next (takeException .dataAbort s)) fun temp =>
          (memWrite (s.withUserXfer false) z (s.reg rn) (s.reg rm) s.privileged).andThen
            (.next (takeException .dataAbort s)) fun s' => advance (s'.setReg rd temp) := by
  have hp : ¬ (rn = 15#4 ∨ rd = 15#4 ∨ rm = 15#4) := by simpa [eq_comm] using hp
  have hk : ¬ (rn = rm ∨ rn = rd) := by simpa using hk
  rw [swap, conditional_starts hs, if_neg hp, if_neg hk, raise, takeException_withUserXfer]
  rfl

theorem swap_fails_read (hs : s.starts c [rn, rd, rm] = true) (hp : 15#4 ∉ [rn, rd, rm]) (hk : rn ≠ rm ∧ rn ≠ rd) :
    AccessFails s z (s.reg rn) .read s.privileged (.next (takeException .dataAbort s)) (swap z c rn rd rm s) := by
  rw [swap_allowed hs hp hk]
  exact (AccessFails.of_checked (s := s.withUserXfer false) _ _).of_platform rfl rfl

/-- The write of a swap whose read was made. -/
theorem swap_fails_write (hs : s.starts c [rn, rd, rm] = true) (hp : 15#4 ∉ [rn, rd, rm]) (hk : rn ≠ rm ∧ rn ≠ rd)
    (hread : s.canAccess z (s.reg rn) .read s.privileged = true) :
    AccessFails s z (s.reg rn) .write s.privileged (.next (takeException .dataAbort s)) (swap z c rn rd rm s) := by
  rw [swap_allowed hs hp hk, memRead_eq _ z _ _ (by exact hread)]
  exact (AccessFails.of_checked (s := s.withUserXfer false) _ _).of_platform rfl rfl

/-- A swap aborts when its read or its write does. -/
theorem swap_aborts (hs : s.starts c [rn, rd, rm] = true) (hp : 15#4 ∉ [rn, rd, rm]) (hk : rn ≠ rm ∧ rn ≠ rd)
    (ha : z.aligned (s.reg rn) = true) (hm : s.inMap z (s.reg rn) = true)
    (habort : s.abortsAt z (s.reg rn) .read s.privileged = true ∨ s.abortsAt z (s.reg rn) .write s.privileged = true) :
    swap z c rn rd rm s = .next (takeException .dataAbort s) := by
  cases hread : s.abortsAt z (s.reg rn) .read s.privileged
  · have hwrite : s.abortsAt z (s.reg rn) .write s.privileged = true := by simpa [hread] using habort
    exact (swap_fails_write hs hp hk (by simp [State.canAccess, ha, hm, hread])).aborted ha hm hwrite
  · exact (swap_fails_read hs hp hk).aborted ha hm hread

end Swap

/-! ## The first words of a block (R280) -/

/-- The first `j` registers of a list are those of rank below `j`. -/
theorem mem_take_listRegs {n : Nat} (hn : n ≤ 16) (list : BitVec n) (r : Reg) (j : Nat) :
    r ∈ (listRegs list).take j ↔ list.getLsbD r.toNat = true ∧ listRank list r < j := by
  constructor
  · intro h
    have listed := (mem_listRegs hn list r).mp (List.mem_of_mem_take h)
    obtain ⟨hrank, hr⟩ := listRegs_listRank hn list r listed
    obtain ⟨k, hk, hkr⟩ := List.mem_take_iff_getElem.mp h
    have rank : k = listRank list r := (List.getElem_inj (nodup_listRegs hn list)).mp (hkr.trans hr.symm)
    exact ⟨listed, by omega⟩
  · rintro ⟨listed, hj⟩
    obtain ⟨hrank, hr⟩ := listRegs_listRank hn list r listed
    exact List.mem_take_iff_getElem.mpr ⟨listRank list r, by omega, hr⟩

/-- A register before word `j` of a block is given the word of its rank (R282). -/
theorem mem_loadedPairs_take {n : Nat} (hn : n ≤ 16) (s : State) (a : Word) {list : BitVec n} {r : Reg} {j : Nat}
    (h : list.getLsbD r.toNat = true) (hj : listRank list r < j) :
    (r, s.mem.load .word (a + blockBytes (listRank list r))) ∈ loadedPairs s a ((listRegs list).take j) := by
  obtain ⟨hrank, hr⟩ := listRegs_listRank hn list r h
  have hlt : listRank list r < ((listRegs list).take j).length := by rw [List.length_take]; omega
  refine List.mem_map.mpr ⟨listRank list r, List.mem_range.mpr hlt, ?_⟩
  rw [List.getD_eq_getElem?_getD, List.getElem?_eq_getElem hlt, Option.getD_some, List.getElem_take, hr]

theorem listCount_le {n : Nat} (list : BitVec n) : listCount list ≤ n := by
  rw [listCount, listRegs, List.length_map]
  exact Nat.le_trans (List.length_filter_le ..) (Nat.le_of_eq List.length_range)

/-- R15 stands last in a list, so that it is not among the registers before a word of the block. -/
theorem lt_fifteen_of_mem_take_listRegs {list : BitVec 16} {r : Reg} {j : Nat} (hj : j < listCount list)
    (h : r ∈ (listRegs list).take j) : r.toNat < 15 := by
  have hcount : listCount list ≤ listRank list 15#4 + 1 := by
    have := List.length_filter_le (fun k => list.getLsbD k) [15]
    simp only [listCount, listRegs, listRank, List.length_map, List.range_succ (n := 15), List.filter_append,
      List.length_append]
    simpa using this
  have hr := ((mem_take_listRegs (by decide) list r j).mp h).2
  have : r ≠ 15#4 := by
    rintro rfl
    omega
  bv_omega

/-- The state after words are stored from `a` upward. -/
def State.storedWords (s : State) (a : Word) (ws : List Word) : State :=
  { s with mem := storeWords s.mem a ws, written := markWords s.written a ws }

/-! ## Blocks of which an access cannot be made -/

section BlockFails

variable {am : BlockMode} {wb : Bool} {rn : Reg} {s : State}

/-- A block of loads fails as its access number `j` does, the registers before it loaded (R80; log 9). -/
theorem loadRegs_fails {regs : List Reg} {count j : Nat} {b : Bank} (k : List (Reg × Word) → Result)
    (hj : j < regs.length) (h : s.canAccessWords .read (blockStart am (s.reg rn) count) j = true) :
    AccessFails s .word (blockStart am (s.reg rn) count + blockBytes j) .read s.privileged
      (dataAbort rn wb (s.reg rn) (blockFinal am (s.reg rn) count)
        (s.setBankRegs b (loadedPairs s (blockStart am (s.reg rn) count) (regs.take j))))
      (loadRegs am wb rn regs count b s k) := by
  have hlen : (regs.take j).length = j := List.length_take_of_le (Nat.le_of_lt hj)
  have split := loadBlock_split s (blockStart am (s.reg rn) count) (regs.take j) (regs.drop j) (by rw [hlen]; exact h)
  rw [List.take_append_drop, hlen, List.drop_eq_getElem_cons hj] at split
  refine .of_outcome (s.mem.load .word (blockStart am (s.reg rn) count + blockBytes j)) (fun e he => ?_)
    (fun f hf => ?_) fun ha => ?_
  · simp only [loadRegs, split, loadBlock, memRead, he]
  · simp only [loadRegs, split, loadBlock, memRead, hf]
  · simp only [loadRegs, split, loadBlock, memRead, ha, List.append_nil]

/-- A block of loads with R15 in the list: R15's word is the last access (R283). -/
theorem loadRegs_pc_fails {list : BitVec 15} {j : Nat} (finish : List (Reg × Word) → Word → Result)
    (hj : j ≤ (listRegs list).length)
    (h : s.canAccessWords .read (blockStart am (s.reg rn) ((listRegs list).length + 1)) j = true) :
    AccessFails s .word (blockStart am (s.reg rn) ((listRegs list).length + 1) + blockBytes j) .read s.privileged
      (dataAbort rn wb (s.reg rn) (blockFinal am (s.reg rn) ((listRegs list).length + 1))
        (s.setBankRegs s.bank
          (loadedPairs s (blockStart am (s.reg rn) ((listRegs list).length + 1)) ((listRegs list).take j))))
      (loadRegs am wb rn (listRegs list) ((listRegs list).length + 1) s.bank s fun vals =>
        loadPcWord am wb rn list vals s (finish vals)) := by
  rcases Nat.lt_or_eq_of_le hj with hlt | rfl
  · exact loadRegs_fails _ hlt h
  · rw [loadRegs_eq h, List.take_length]
    exact .of_checked _ _

/-- A block of stores fails as its access number `j` does, the words before it stored (R80). -/
theorem storeRegs_fails {words : List Word} {j : Nat} (k : State → Result) (hj : j < words.length)
    (h : s.canAccessWords .write (blockStart am (s.reg rn) words.length) j = true) :
    AccessFails s .word (blockStart am (s.reg rn) words.length + blockBytes j) .write s.privileged
      (dataAbort rn wb (s.reg rn) (blockFinal am (s.reg rn) words.length)
        (s.storedWords (blockStart am (s.reg rn) words.length) (words.take j)))
      (storeRegs am wb rn words s k) := by
  have hlen : (words.take j).length = j := List.length_take_of_le (Nat.le_of_lt hj)
  have split := storeBlock_split s (blockStart am (s.reg rn) words.length) (words.take j) (words.drop j)
    (by rw [hlen]; exact h)
  rw [List.take_append_drop, hlen, List.drop_eq_getElem_cons hj, ← State.storedWords] at split
  generalize ht : s.storedWords (blockStart am (s.reg rn) words.length) (words.take j) = t at split ⊢
  have privileged : t.privileged = s.privileged := by rw [← ht]; rfl
  refine AccessFails.of_platform (u := t) (.of_outcome
    (t.stored .word (blockStart am (s.reg rn) words.length + blockBytes j) words[j]) (fun e he => ?_) (fun f hf => ?_)
    fun ha => ?_) (by rw [← ht]; rfl) (by rw [← ht]; rfl)
  · simp only [storeRegs, split, storeBlock, memWrite, privileged, he]
  · simp only [storeRegs, split, storeBlock, memWrite, privileged, hf]
  · simp only [storeRegs, split, storeBlock, memWrite, privileged, ha]

end BlockFails

/-! ## What a block leaves that aborts (R80) -/

theorem State.setBankRegs_withUserXfer (s : State) (b : Bank) (l : List (Reg × Word)) (f : Bool) :
    (s.withUserXfer f).setBankRegs b l = (s.setBankRegs b l).withUserXfer f := by
  induction l generalizing s with
  | nil => rfl
  | cons p rest ih =>
    have one : (s.withUserXfer f).setBankReg b p.1 p.2 = (s.setBankReg b p.1 p.2).withUserXfer f := by
      unfold State.setBankReg
      split <;> rfl
    rw [State.setBankRegs, one, ih, State.setBankRegs]

namespace BlockTransfer

variable {b : BlockTransfer} {s : State} {j : Nat}

/-- The base register's value after a Data Abort, as `ABORT_BASE` says (log 8). -/
def baseAfterAbort (b : BlockTransfer) (s : State) : Word :=
  if b.w && Config.abortBaseUpdated then blockFinal b.am (s.reg b.rn) (listCount b.list) else s.reg b.rn

/-- The registers before word `j` of the block, paired with their words. -/
def pairsBefore (b : BlockTransfer) (s : State) (j : Nat) : List (Reg × Word) :=
  loadedPairs s (b.start s) ((listRegs b.list).take j)

/-- The state in which a load that aborts at word `j` takes the exception. -/
def loadedBefore (b : BlockTransfer) (s : State) (j : Nat) : State :=
  s.withGpr ((s.setBankRegs (b.bank s) (b.pairsBefore s j)).gpr.set (s.bank.index b.rn) (b.baseAfterAbort s))

/-- The words that a store transfers. -/
def words (b : BlockTransfer) (s : State) : List Word := (listRegs b.list).map (s.storedReg (b.bank s))

/-- The state in which a store that aborts at word `j` takes the exception. -/
def storedBefore (b : BlockTransfer) (s : State) (j : Nat) : State :=
  (s.storedWords (b.start s) ((b.words s).take j)).withGpr (b.abortBase s)

theorem abortBase_eq (hrn : b.rn ≠ 15#4) : b.abortBase s = s.gprWith b.rn (b.baseAfterAbort s) := by
  unfold BlockTransfer.abortBase baseAfterAbort
  split
  · rfl
  · exact (s.gprWith_reg hrn).symm

theorem lt_fifteen_of_mem_pairsBefore (hj : j < listCount b.list) {p : Reg × Word} (h : p ∈ b.pairsBefore s j) :
    p.1.toNat < 15 :=
  lt_fifteen_of_mem_take_listRegs hj (mem_of_mem_loadedPairs h)

/-- A load that aborts has loaded the registers before word `j`, and then its base (R80; log 9). -/
theorem loadedUpTo_loadedBefore (hrn : b.rn ≠ 15#4) (hj : j < listCount b.list) :
    b.LoadedUpTo s j (b.loadedBefore s j).gpr := by
  have distinct : ((b.pairsBefore s j).map Prod.fst).Nodup := by
    rw [pairsBefore, loadedPairs_fst]
    exact (nodup_listRegs (by decide) b.list).sublist (List.take_sublist ..)
  obtain ⟨loaded, kept⟩ := State.getElem_setBankRegs (b.bank s) (b.pairsBefore s j)
    (fun p hp => lt_fifteen_of_mem_pairsBefore hj hp) distinct s
  refine ⟨?base, fun i hi => ⟨fun r hr hl hrank hri => ?listed, fun hout => ?other⟩⟩
  case base =>
    rw [abortBase_eq hrn, State.gprWith]
    simp [loadedBefore]
  all_goals
    have ne : (s.bank.index b.rn).val ≠ i.val := fun h => hi (Fin.ext h.symm)
    simp only [loadedBefore, State.withGpr_gpr, Fin.getElem_fin, Vector.getElem_set_ne _ _ ne]
  case listed =>
    subst hri
    exact loaded _ (mem_loadedPairs_take (by decide) s (b.start s) hl hrank)
  case other =>
    refine kept i fun p hp => ?_
    obtain ⟨hl, hrank⟩ := (mem_take_listRegs (by decide) b.list p.1 j).mp (mem_of_mem_loadedPairs hp)
    exact hout p.1 (lt_fifteen_of_mem_pairsBefore hj hp) hl hrank

/-- A store that aborts has stored the words before word `j` (R80). -/
theorem blockStored_storedBefore (hj : j < listCount b.list) (h : s.canAccessWords .write (b.start s) j = true) :
    s.BlockStored (b.storedBefore s j) (b.start s) j fun m =>
      s.storedReg (b.bank s) ((listRegs b.list).getD m 0#4) := by
  have hlen : ((b.words s).take j).length = j :=
    List.length_take_of_le (by rw [words, List.length_map]; exact Nat.le_of_lt hj)
  have hle : j ≤ 16 := Nat.le_of_lt (Nat.lt_of_lt_of_le hj (listCount_le b.list))
  have word : ∀ m, (hm : m < ((b.words s).take j).length) →
      ((b.words s).take j)[m] = s.storedReg (b.bank s) ((listRegs b.list).getD m 0#4) := by
    intro m hm
    have hm' : m < (listRegs b.list).length := Nat.lt_trans (by omega) hj
    simp only [words, List.getElem_take, List.getElem_map, List.getD_eq_getElem?_getD, List.getElem?_eq_getElem hm',
      Option.getD_some]
  have stored := s.blockStored_of_storeWords (b.storedBefore s j) (b.start s) ((b.words s).take j) _ (by omega)
    (by rw [hlen]; exact h) rfl rfl word
  rwa [hlen] at stored

theorem dataAbort_load (hrn : b.rn ≠ 15#4) (hj : j < listCount b.list) :
    dataAbort b.rn b.w (s.reg b.rn) (blockFinal b.am (s.reg b.rn) (listCount b.list))
      ((s.withUserXfer false).setBankRegs (b.bank s) (b.pairsBefore s j)) =
        .next (takeException .dataAbort (b.loadedBefore s j)) := by
  have hpc : ∀ p ∈ b.pairsBefore s j, p.1 ≠ 15#4 := by
    intro p hp he
    exact absurd (lt_fifteen_of_mem_pairsBefore hj hp) (by rw [he]; decide)
  have frame := State.setBankRegs_eq_withGpr (b.bank s) _ hpc s
  rw [State.setBankRegs_withUserXfer, dataAbort_withUserXfer, dataAbort_eq hrn, frame]
  rfl

theorem dataAbort_store (hrn : b.rn ≠ 15#4) :
    dataAbort b.rn b.w (s.reg b.rn) (blockFinal b.am (s.reg b.rn) (listCount b.list))
      ((s.withUserXfer false).storedWords (b.start s) ((b.words s).take j)) =
        .next (takeException .dataAbort (b.storedBefore s j)) := by
  have frame : (s.withUserXfer false).storedWords (b.start s) ((b.words s).take j) =
      (s.storedWords (b.start s) ((b.words s).take j)).withUserXfer false := rfl
  rw [frame, dataAbort_withUserXfer, dataAbort_eq hrn, storedBefore, abortBase_eq hrn]
  rfl

/-! ### Blocks in the terms of `BlockTransfer` -/

/-- The loads of the registers below R15. -/
theorem loads_fail {regs : List Reg} {count : Nat} (hrn : b.rn ≠ 15#4) (hcount : listCount b.list = count)
    (hregs : (listRegs b.list).take j = regs.take j) (hj : j < regs.length) (hlast : j < listCount b.list)
    (h : s.canAccessWords .read (b.start s) j = true) (k : List (Reg × Word) → Result) :
    AccessFails s .word (b.start s + blockBytes j) .read s.privileged
      (.next (takeException .dataAbort (b.loadedBefore s j)))
      (loadRegs b.am b.w b.rn regs count (b.bank s) (s.withUserXfer false) k) := by
  subst hcount
  have fails := loadRegs_fails (s := s.withUserXfer false) (am := b.am) (wb := b.w) (b := b.bank s) k hj h
  rw [← hregs] at fails
  rw [← dataAbort_load hrn hlast]
  exact fails.of_platform rfl rfl

/-- The loads of a list with R15, its word the last. -/
theorem loads_pc_fail {list : BitVec 15} (hrn : b.rn ≠ 15#4) (hlist : b.list = 0b1#1 ++ list) (hb : b.user = false)
    (hj : j < listCount b.list) (h : s.canAccessWords .read (b.start s) j = true)
    (finish : List (Reg × Word) → Word → Result) :
    AccessFails s .word (b.start s + blockBytes j) .read s.privileged
      (.next (takeException .dataAbort (b.loadedBefore s j)))
      (loadRegs b.am b.w b.rn (listRegs list) ((listRegs list).length + 1) s.bank (s.withUserXfer false) fun vals =>
        loadPcWord b.am b.w b.rn list vals (s.withUserXfer false) (finish vals)) := by
  have hcount : listCount b.list = (listRegs list).length + 1 := by
    rw [listCount, hlist, listRegs_withPc, List.length_append]
    rfl
  have hle : j ≤ (listRegs list).length := by omega
  have hregs : (listRegs b.list).take j = (listRegs list).take j := by
    rw [hlist, listRegs_withPc, List.take_append_of_le_length hle]
  have bank : b.bank s = s.bank := by rw [BlockTransfer.bank, hb]; rfl
  have start : b.start s = blockStart b.am (s.reg b.rn) ((listRegs list).length + 1) := by
    rw [BlockTransfer.start, hcount]
  have fails := loadRegs_pc_fails (s := s.withUserXfer false) (am := b.am) (wb := b.w) (rn := b.rn) finish hle
    (start ▸ h)
  have abort := dataAbort_load (s := s) hrn hj
  rw [pairsBefore, hregs, hcount, bank, start] at abort
  rw [← abort, start]
  exact fails.of_platform rfl rfl

theorem stores_fail (hrn : b.rn ≠ 15#4) (hj : j < listCount b.list)
    (h : s.canAccessWords .write (b.start s) j = true) (k : State → Result) :
    AccessFails s .word (b.start s + blockBytes j) .write s.privileged
      (.next (takeException .dataAbort (b.storedBefore s j)))
      (storeRegs b.am b.w b.rn (b.words s) (s.withUserXfer false) k) := by
  have hlen : (b.words s).length = listCount b.list := List.length_map ..
  have start : blockStart b.am (s.reg b.rn) (b.words s).length = b.start s := by rw [hlen, BlockTransfer.start]
  have fails := storeRegs_fails (s := s.withUserXfer false) (am := b.am) (wb := b.w) (rn := b.rn) k (hlen ▸ hj)
    (by rw [State.withUserXfer_reg, start]; exact h)
  rw [State.withUserXfer_reg, start, hlen, dataAbort_store hrn] at fails
  exact fails.of_platform rfl rfl

end BlockTransfer

/-! ### The six forms, when they start and are allowed -/

section ExecBlockAllowed

variable {s : State} {c : Cond} {am : BlockMode} {w : Bool} {rn : Reg}

theorem execLdm_allowed {list : BitVec 15} (hs : s.starts c (rn :: listRegs list) = true) (hrn : rn ≠ 15#4)
    (hw : w = true → inList list rn = false) :
    execLdm c am w rn list s =
      loadRegs am w rn (listRegs list) (listRegs list).length s.bank (s.withUserXfer false) fun vals =>
        advance (loadedRegs am w rn (listRegs list).length vals (s.withUserXfer false)) := by
  rw [execLdm, conditional_starts hs]
  simp only [ldmRestriction_of_allowed hrn hw]
  rfl

theorem execLdmPc_allowed {list : BitVec 15} (hs : s.starts c (rn :: listRegs list) = true) (hrn : rn ≠ 15#4)
    (hw : w = true → inList list rn = false) :
    execLdmPc c am w rn list s =
      loadRegs am w rn (listRegs list) ((listRegs list).length + 1) s.bank (s.withUserXfer false) fun vals =>
        loadPcWord am w rn list vals (s.withUserXfer false) fun data =>
          branchExchange data (loadedRegs am w rn ((listRegs list).length + 1) vals (s.withUserXfer false)) := by
  rw [execLdmPc, conditional_starts hs]
  simp only [ldmRestriction_of_allowed hrn hw]
  rfl

theorem execLdmPcRet_allowed {list : BitVec 15} (hs : s.starts c (rn :: listRegs list) = true) (hrn : rn ≠ 15#4)
    (hw : w = true → inList list rn = false) (hb : s.bank ≠ .usr) :
    execLdmPcRet c am w rn list s =
      loadRegs am w rn (listRegs list) ((listRegs list).length + 1) s.bank (s.withUserXfer false) fun vals =>
        loadPcWord am w rn list vals (s.withUserXfer false) fun data =>
          returnTo data (loadedRegs am w rn ((listRegs list).length + 1) vals (s.withUserXfer false)) := by
  obtain ⟨saved, hsaved⟩ := s.savedPsr_of_bank hb
  have hsaved : (s.withUserXfer false).savedPsr = some saved := hsaved
  rw [execLdmPcRet, conditional_starts hs]
  simp only [ldmRestriction_of_allowed hrn hw, hsaved]
  rfl

theorem execLdmUser_allowed {list : BitVec 15} (hs : s.starts c (rn :: listRegs list) = true) (hrn : rn ≠ 15#4)
    (hb : s.bank ≠ .usr) :
    execLdmUser c am rn list s =
      remembering (loadRegs am false rn (listRegs list) (listRegs list).length .usr (s.withUserXfer false) fun vals =>
        advance ((s.withUserXfer false).setBankRegs .usr vals)) := by
  rw [execLdmUser, conditional_starts hs, if_neg (by exact hb)]
  simp only [ldmRestriction_of_allowed (w := false) hrn nofun]

theorem execStm_allowed {list : BitVec 16} (hs : s.starts c (rn :: listRegs list) = true) (hrn : rn ≠ 15#4)
    (hw : w = true → inList list rn = true → listRank list rn = 0) :
    execStm c am w rn list s =
      storeRegs am w rn ((listRegs list).map (s.storedReg s.bank)) (s.withUserXfer false) fun s' =>
        advance (s'.writeBack w rn (blockFinal am (s.reg rn) (listRegs list).length)) := by
  rw [execStm, conditional_starts hs]
  simp only [stmRestriction_of_allowed hrn hw]
  rfl

theorem execStmUser_allowed {list : BitVec 16} (hs : s.starts c (rn :: listRegs list) = true) (hrn : rn ≠ 15#4)
    (hb : s.bank ≠ .usr) :
    execStmUser c am rn list s =
      remembering (storeRegs am false rn ((listRegs list).map (s.storedReg .usr)) (s.withUserXfer false) advance) := by
  rw [execStmUser, conditional_starts hs, if_neg (by exact hb)]
  simp only [stmRestriction_of_allowed (w := false) hrn nofun]
  rfl

end ExecBlockAllowed

/-! ### The words of an LDM or STM that cannot be transferred -/

section ExecBlockFails

variable {i : Instr} {b : BlockTransfer} {s : State} {j : Nat}

theorem inList_withPc (list : BitVec 15) {r : Reg} (h : r ≠ 15#4) :
    (0b1#1 ++ list).getLsbD r.toNat = inList list r := by
  have hlt : r.toNat < 15 := by bv_omega
  rw [inList, BitVec.getLsbD_append, if_pos hlt]

theorem exec_blockLoad_fails (hi : i.blockTransfer = some b) (hload : b.load = true)
    (hs : s.starts b.c i.named = true) (ha : b.allowed s) (hj : j < listCount b.list)
    (h : s.canAccessWords .read (b.start s) j = true) :
    AccessFails s .word (b.start s + blockBytes j) .read s.privileged
      (.next { takeException .dataAbort (b.loadedBefore s j) with userXfer := b.user }) (exec i s) := by
  obtain ⟨hrn, hbase, hbank⟩ := ha
  have count : ∀ list : BitVec 15, listCount (0b0#1 ++ list) = (listRegs list).length := fun list => by
    rw [listCount, listRegs_withoutPc]
  cases i with
  | ldm c am w rn list =>
    cases hi
    have hw : w = true → inList list rn = false := fun hw => by simpa [hw, inList_withoutPc] using hbase
    rw [show exec (.ldm c am w rn list) s = _ from execLdm_allowed hs hrn hw]
    exact BlockTransfer.loads_fail hrn (count list) (by rw [listRegs_withoutPc]) (count list ▸ hj) hj h _
  | ldmPc c am w rn list =>
    cases hi
    have hw : w = true → inList list rn = false := fun hw => by simpa [hw, inList_withPc list hrn] using hbase
    rw [show exec (.ldmPc c am w rn list) s = _ from execLdmPc_allowed hs hrn hw]
    exact BlockTransfer.loads_pc_fail hrn rfl rfl hj h _
  | ldmPcRet c am w rn list =>
    cases hi
    have hw : w = true → inList list rn = false := fun hw => by simpa [hw, inList_withPc list hrn] using hbase
    rw [show exec (.ldmPcRet c am w rn list) s = _ from execLdmPcRet_allowed hs hrn hw (hbank (.inr rfl))]
    exact BlockTransfer.loads_pc_fail hrn rfl rfl hj h _
  | ldmUser c am rn list =>
    cases hi
    rw [show exec (.ldmUser c am rn list) s = _ from execLdmUser_allowed hs hrn (hbank (.inl rfl))]
    exact (BlockTransfer.loads_fail (b := ⟨true, c, am, false, rn, 0b0#1 ++ list, true, false⟩) hrn (count list)
      (by rw [listRegs_withoutPc]) (count list ▸ hj) hj h _).remembering
  | stm | stmUser => cases hi; cases hload
  | _ => cases hi

theorem exec_blockStore_fails (hi : i.blockTransfer = some b) (hload : b.load = false)
    (hs : s.starts b.c i.named = true) (ha : b.allowed s) (hj : j < listCount b.list)
    (h : s.canAccessWords .write (b.start s) j = true) :
    AccessFails s .word (b.start s + blockBytes j) .write s.privileged
      (.next { takeException .dataAbort (b.storedBefore s j) with userXfer := b.user }) (exec i s) := by
  obtain ⟨hrn, hbase, hbank⟩ := ha
  cases i with
  | stm c am w rn list =>
    cases hi
    rw [show exec (.stm c am w rn list) s = _ from execStm_allowed hs hrn fun hw hl => (hbase hw hl).2]
    exact BlockTransfer.stores_fail hrn hj h _
  | stmUser c am rn list =>
    cases hi
    rw [show exec (.stmUser c am rn list) s = _ from execStmUser_allowed hs hrn (hbank (.inl rfl))]
    exact (BlockTransfer.stores_fail (b := ⟨false, c, am, false, rn, list, true, false⟩) hrn hj h _).remembering
  | ldm | ldmPc | ldmPcRet | ldmUser => cases hi; cases hload
  | _ => cases hi

end ExecBlockFails

/-- Settles O44: each access fails as its checks answer (`AccessFails`), and a block then leaves its first words
transferred. -/
theorem transferFailures : Obligations.TransferFailures := by
  refine ⟨?single, ?swap, ?block⟩
  case single =>
    intro i t s kind p hi hs ha hkind hp
    subst hkind
    rw [← SingleOp.privilege_eq] at hp
    subst hp
    have fails := exec_transfer_fails hi hs ha
    exact ⟨fails.misaligned, fails.unmapped, fails.aborted⟩
  case swap =>
    intro z c rn rd rm s i a hz hs hrn hrd hrm hnm hnd ha
    subst ha
    have hexec : exec i s = swap z c rn rd rm s := by
      simp only [List.mem_cons, Prod.mk.injEq, List.not_mem_nil, or_false] at hz
      rcases hz with ⟨rfl, rfl⟩ | ⟨rfl, rfl⟩ <;> rfl
    have hp : 15#4 ∉ [rn, rd, rm] := by simp [eq_comm, hrn, hrd, hrm]
    have fails := swap_fails_read (z := z) hs hp ⟨hnm, hnd⟩
    rw [hexec]
    exact ⟨fails.misaligned, fails.unmapped, swap_aborts hs hp ⟨hnm, hnd⟩⟩
  case block =>
    intro i b s kind j a hi hs ha hkind hj h hstart
    subst hkind hstart
    cases hload : b.load
    · rw [hload] at h
      have fails := exec_blockStore_fails hi hload hs ha hj h
      exact ⟨fails.misaligned, fails.unmapped, fun hal hm hab => ⟨_, fails.aborted hal hm hab, nofun,
        fun _ => ⟨rfl, BlockTransfer.blockStored_storedBefore hj h⟩⟩⟩
    · rw [hload] at h
      have fails := exec_blockLoad_fails hi hload hs ha hj h
      exact ⟨fails.misaligned, fails.unmapped, fun hal hm hab => ⟨_, fails.aborted hal hm hab,
        fun _ => ⟨rfl, BlockTransfer.loadedUpTo_loadedBefore ha.1 hj⟩, nofun⟩⟩

end Sys2Proof.Machine

/-!
PROOFS. Moves and status registers: the logical instructions of the data-processing frame, the exception return of a
data-processing instruction (R145), MRS, and MSR to the CPSR and to the SPSR with what it refuses.
-/

namespace Sys2Proof.Machine

/-- An instruction runs when it starts and has a next one (R28). -/
theorem State.runs_iff_starts (s : State) (c : Cond) (named : List Reg) :
    s.runs c named = true ↔ s.starts c named = true ∧ s.hasNext = true := by
  rw [State.runs, Bool.and_eq_true]

/-! ## Exception returns (R145) -/

theorem clearBit0_eq_append (v : Word) : clearBit0 v = v.extractLsb' 1 31 ++ 0b0#1 := by
  have hm : ∀ k < 32, (0xFFFFFFFE#32).getLsbD k = decide (k ≠ 0) := by decide
  refine BitVec.eq_of_getLsbD_eq fun k hk => ?_
  rw [clearBit0, BitVec.getLsbD_and, hm k hk, BitVec.getLsbD_append]
  rcases k with _ | k
  · simp
  · simp [show k < 31 by omega, Nat.add_comm 1 k]

section Return

variable {s : State} {saved v : Word}

theorem returnTo_noSpsr (h : s.savedPsr = none) : returnTo v s = .refused .noSpsr := by
  simp only [returnTo, h]

theorem returnTo_illegalMode (h : s.savedPsr = some saved) (hl : Psr.legalMode (Psr.mode saved) = false) :
    returnTo v s = .refused .illegalMode := by
  simp [returnTo, h, hl]

theorem returnTo_arm (h : s.savedPsr = some saved) (hl : Psr.legalMode (Psr.mode saved) = true)
    (ht : Psr.t saved = false) (hv : v.toNat % 4 = 0) : returnTo v s = .next ((s.withCpsr saved).withPc v) := by
  simp [returnTo, h, hl, ht, (wordAligned_iff v).mpr hv]

theorem returnTo_misaligned (h : s.savedPsr = some saved) (hl : Psr.legalMode (Psr.mode saved) = true)
    (ht : Psr.t saved = false) (hv : v.toNat % 4 ≠ 0) : returnTo v s = .refused .misalignedBranch := by
  simp [returnTo, h, hl, ht, mt (wordAligned_iff v).mp hv]

theorem returnTo_thumb (h : s.savedPsr = some saved) (hl : Psr.legalMode (Psr.mode saved) = true)
    (ht : Psr.t saved = true) :
    returnTo v s = .next ((s.withCpsr saved).withPc (v.extractLsb' 1 31 ++ 0b0#1)) := by
  simp [returnTo, h, hl, ht, clearBit0_eq_append]

end Return

/-! ## MSR (R146 to R150) -/

/-- The bits that an MSR to the SPSR merges are those it may change (R146). -/
theorem merges_mergePsr_spsr (fields : BitVec 4) (saved operand : Word) :
    Merges (mergePsr saved operand (Psr.byteMask fields &&& (Psr.userMask ||| Psr.privMask ||| Psr.stateMask))) saved
      operand (msrWritesSpsr fields) := fun k hk => by
  have hm : ∀ k < 32,
      (Psr.userMask ||| Psr.privMask ||| Psr.stateMask).getLsbD k = (decide (27 ≤ k) || decide (k < 8)) := by decide
  rw [getLsbD_mergePsr _ _ _ _ hk, BitVec.getLsbD_and, Psr.getLsbD_byteMask _ _ hk, hm k hk, msrWritesSpsr]

section Msr

variable {s : State} {fields : BitVec 4} {operand : Word}

theorem msrCpsr_noField (hf : fields = 0#4) : msrCpsr fields operand s = .refused .noFieldSelected := if_pos hf

theorem msrSpsr_noField (hf : fields = 0#4) : msrSpsr fields operand s = .refused .noFieldSelected := if_pos hf

theorem msrCpsr_reserved (hf : fields ≠ 0#4) (h : ¬ msrReservedFree fields operand) :
    msrCpsr fields operand s = .refused .reservedPsrBit := by
  rw [msrCpsr, if_neg hf, if_pos (mt (msrReservedFree_iff ..).mpr h)]

theorem msrSpsr_reserved (hf : fields ≠ 0#4) (h : ¬ msrReservedFree fields operand) :
    msrSpsr fields operand s = .refused .reservedPsrBit := by
  rw [msrSpsr, if_neg hf, if_pos (mt (msrReservedFree_iff ..).mpr h)]

section Selected

variable (hf : fields ≠ 0#4) (hfree : msrReservedFree fields operand)
include hf hfree

theorem msrCpsr_setsT (hp : s.privileged = true) (h0 : fields.getLsbD 0 = true) (h5 : operand.getLsbD 5 = true) :
    msrCpsr fields operand s = .refused .msrSetsT := by
  have hthumb : operand &&& Psr.byteMask fields &&& Psr.stateMask ≠ 0#32 := fun h =>
    Bool.false_ne_true (((msrSetsT_iff fields operand).mp h h0).symm.trans h5)
  rw [msrCpsr, if_neg hf, if_neg (not_not_intro ((msrReservedFree_iff ..).mp hfree)), if_pos (by simp [hp, hthumb])]

/-- An MSR to the CPSR that passes the checks of its operand writes the merged CPSR, if its mode is legal (R146). -/
theorem msrCpsr_of_merges {new : Word}
    (hT : s.privileged = true → fields.getLsbD 0 = true → operand.getLsbD 5 = false)
    (hnew : Merges new s.cpsr operand (msrWritesCpsr s fields)) :
    msrCpsr fields operand s
      = if Psr.legalMode (Psr.mode new) then advance (s.withCpsr new) else .refused .illegalMode := by
  have hthumb : (s.privileged && operand &&& Psr.byteMask fields &&& Psr.stateMask != 0#32) = false := by
    cases hp : s.privileged
    · rfl
    · simpa using (msrSetsT_iff fields operand).mpr (hT hp)
  rw [msrCpsr, if_neg hf, if_neg (not_not_intro ((msrReservedFree_iff ..).mp hfree)), if_neg (by simp [hthumb]),
    ← merges_unique hnew (merges_mergePsr_cpsr s fields operand)]
  cases Psr.legalMode (Psr.mode new) <;> rfl

theorem msrSpsr_noSpsr (h : s.savedPsr = none) : msrSpsr fields operand s = .refused .noSpsr := by
  rw [msrSpsr, if_neg hf, if_neg (not_not_intro ((msrReservedFree_iff ..).mp hfree))]
  simp only [h]

theorem msrSpsr_of_merges {saved new : Word} (h : s.savedPsr = some saved)
    (hnew : Merges new saved operand (msrWritesSpsr fields)) :
    msrSpsr fields operand s = advance (s.withSpsr (s.spsr.set s.bank new)) := by
  rw [msrSpsr, if_neg hf, if_neg (not_not_intro ((msrReservedFree_iff ..).mp hfree)),
    merges_unique hnew (merges_mergePsr_spsr fields saved operand)]
  simp only [h]

end Selected

end Msr

/-- An MSR of R15 is refused (R147, R148); the immediate forms name no register. -/
theorem exec_msr_pcOperand {o : MsrOperand} {c : Cond} {fields : BitVec 4} {s : State}
    (hs : s.starts c o.named = true) (hp : 15#4 ∈ o.named) :
    exec (o.toCpsr c fields) s = .refused .pcOperand ∧ exec (o.toSpsr c fields) s = .refused .pcOperand := by
  cases o with
  | reg rm =>
    have hrm : rm = 15#4 := (List.mem_singleton.mp hp).symm
    exact ⟨(conditional_starts hs _).trans (if_pos hrm), (conditional_starts hs _).trans (if_pos hrm)⟩
  | imm rot v => cases hp

/-- Settles O34: the operand passes the checks, and the CPSR becomes the one merge there is. -/
theorem msrCpsrResults : Obligations.MsrCpsrResults := by
  intro o c fields s new hr hp hf hfree hT hnew hl
  obtain ⟨hs, hn⟩ := (s.runs_iff_starts c _).mp hr
  rw [exec_toCpsr hs hp, msrCpsr_of_merges (s := s.withUserXfer false) hf hfree hT hnew, if_pos hl]
  exact advance_eq _ hn

/-- Settles O35: the operand passes the checks, and the SPSR of the mode becomes the one merge there is. -/
theorem msrSpsrResults : Obligations.MsrSpsrResults := by
  intro o c fields s saved new hr hp hf hfree hsaved hnew
  obtain ⟨hs, hn⟩ := (s.runs_iff_starts c _).mp hr
  rw [exec_toSpsr hs hp, msrSpsr_of_merges (s := s.withUserXfer false) hf hfree hsaved hnew]
  exact advance_eq _ hn

/-- Settles O36: the checks of an MSR in their order. -/
theorem msrRefusals : Obligations.MsrRefusals := by
  intro o c fields s hs
  refine ⟨exec_msr_pcOperand hs, fun hp => ?_⟩
  rw [exec_toCpsr hs hp, exec_toSpsr hs hp]
  refine ⟨fun hf => ⟨msrCpsr_noField hf, msrSpsr_noField hf⟩,
    fun hf h => ⟨msrCpsr_reserved hf h, msrSpsr_reserved hf h⟩, fun hf hfree => ⟨?setsT, ?illegalMode, ?noSpsr⟩⟩
  case setsT => exact msrCpsr_setsT (s := s.withUserXfer false) hf hfree
  case illegalMode =>
    intro new hT hnew hl
    rw [msrCpsr_of_merges (s := s.withUserXfer false) hf hfree hT hnew, hl]
    rfl
  case noSpsr => exact msrSpsr_noSpsr (s := s.withUserXfer false) hf hfree

/-! ## MRS (R142, R143) -/

theorem execMrsSpsr_eq {c : Cond} {rd : Reg} {s : State} {saved : Word} (hr : s.runs c [rd] = true) (hrd : rd ≠ 15#4)
    (h : s.savedPsr = some saved) : execMrsSpsr c rd s = .next (s.wrote rd saved s.cpsr) := by
  obtain ⟨hs, hn⟩ := (s.runs_iff_starts c _).mp hr
  have h : (s.withUserXfer false).savedPsr = some saved := h
  rw [execMrsSpsr, conditional_starts hs]
  simp only [hrd, if_false, h, State.setReg_eq _ _ _ hrd]
  exact advance_eq _ hn

theorem execMrsSpsr_noSpsr {c : Cond} {rd : Reg} {s : State} (hs : s.starts c [rd] = true) (hrd : rd ≠ 15#4)
    (h : s.savedPsr = none) : execMrsSpsr c rd s = .refused .noSpsr := by
  have h : (s.withUserXfer false).savedPsr = none := h
  rw [execMrsSpsr, conditional_starts hs]
  simp only [hrd, if_false, h]

/-- Settles O33: MRS of the CPSR is in the frame of the general registers, MRS of the SPSR reads that of the mode. -/
theorem mrsResults : Obligations.MrsResults := by
  intro c rd s hr hrd
  refine ⟨?cpsr, fun saved h => execMrsSpsr_eq hr hrd h,
    execMrsSpsr_noSpsr ((s.runs_iff_starts c _).mp hr).1 hrd⟩
  refine (registersOnly_eq c [rd] false s _ hr (by simpa using hrd.symm) rfl (State.setReg_pc _ _ _ hrd)).trans ?_
  rw [State.setReg_eq _ _ _ hrd]
  rfl

end Sys2Proof.Machine

namespace Sys2Proof

open Sys2Proof.Machine

/-! ## Data processing by name -/

/-- The result, C and V of a logical instruction (R140, R141, R144, R202 to R205). -/
theorem LogicalName.aluResult_eq (k : LogicalName) (rn : Reg) (o : Operand2) (s : State) :
    aluResult (DpName.logical k).op ((DpName.logical k).operand rn) o s
      = ⟨k.value (s.reg rn) (operand2Eval o s).1, (operand2Eval o s).2, Psr.v s.cpsr⟩ := by
  have hresult := (DpName.logical k).aluResult_result rn o s
  rw [Alu.mk.injEq]
  refine ⟨hresult, ?_⟩
  cases k <;> exact ⟨rfl, rfl⟩

/-- Settles O19: the frame of data processing, with the result and the flags of the name. -/
theorem logicalResults : Obligations.LogicalResults := by
  intro k c sf rn rd o s hr hp hd
  have hnamed := (DpName.logical k).named_eq rn rd o
  rw [show k.named rn rd o = _ from hnamed] at hr hp
  rw [show exec (k.instr c sf rn rd o) s = _ from (DpName.logical k).exec_instr c sf rn rd o s,
    dataProcessing_eq _ c sf rd _ o s hr hp hd, k.aluResult_eq]

/-- With S and R15 as destination the frame ends in an exception return to the result (R145). -/
theorem DpName.exec_instr_return {k : DpName} {c : Cond} {rn : Reg} {o : Operand2} {s : State}
    (hs : s.starts c (k.named rn 15#4 o) = true) (ho : operand2IsRegShift o = false) :
    exec (k.instr c true rn 15#4 o) s = returnTo (k.result rn o s) (s.withUserXfer false) := by
  rw [DpName.named_eq] at hs
  rw [DpName.exec_instr, dataProcessing, conditional_starts hs]
  simp only [namesPc, ho, Bool.false_and, Bool.false_eq_true, if_false, writeResult, if_true, aluResult_withUserXfer,
    DpName.aluResult_result]

/-- Settles O24: the outcomes of an exception return to the result. -/
theorem dataProcessingReturns : Obligations.DataProcessingReturns := by
  intro k c rn o s hs ho
  rw [DpName.exec_instr_return hs ho]
  exact ⟨returnTo_noSpsr (s := s.withUserXfer false), fun saved h =>
    ⟨returnTo_illegalMode (s := s.withUserXfer false) h, returnTo_arm (s := s.withUserXfer false) h,
      returnTo_misaligned (s := s.withUserXfer false) h, returnTo_thumb (s := s.withUserXfer false) h⟩⟩

end Sys2Proof

/-!
PROOFS. Arithmetic: the six arithmetic instructions of the data-processing frame in exact integers, and the saturating
additions and subtractions.
-/

namespace Sys2Proof.Machine

/-! ## Differences (R161) -/

/-- A sum with the complement is a difference in exact integers; its carry is the absence of a borrow (R161). -/
theorem addWithCarry_not (a b : Word) (c : Bool) :
    addWithCarry a (~~~b) c =
      ⟨BitVec.ofInt 32 (a.toInt - b.toInt - (1 - c.toNat)), decide (0 ≤ (a.toNat : Int) - b.toNat - (1 - c.toNat)),
        decide (a.toInt - b.toInt - (1 - c.toNat) < -(2 ^ 31) ∨ 2 ^ 31 - 1 < a.toInt - b.toInt - (1 - c.toNat))⟩ := by
  have hnat : (~~~b).toNat = 2 ^ 32 - 1 - b.toNat := BitVec.toNat_not
  have hint : (~~~b).toInt = -b.toInt - 1 := by
    simp only [BitVec.toInt_eq_toNat_cond, hnat]
    omega
  have hsum : a.toInt + (~~~b).toInt + c.toNat = a.toInt - b.toInt - (1 - c.toNat) := by omega
  rw [addWithCarry_exact, hsum, hnat, Alu.mk.injEq]
  refine ⟨rfl, ?_, rfl⟩
  rw [decide_eq_decide]
  omega

/-! ## Saturation (R160) -/

theorem toInt_sat_eq_clamp (x : Int) : (sat x).toInt = clamp x := toInt_sat x

theorem sat_eq_ofInt_clamp (x : Int) : sat x = BitVec.ofInt 32 (clamp x) := by
  rw [← toInt_sat_eq_clamp, BitVec.ofInt_toInt]

/-- Q is set when a clamping changed the result (R32, R160). -/
theorem Psr.stickyQ_not_fitsSigned (p : Word) (x : Int) : Psr.stickyQ p (!fitsSigned x) = qIf p x := by
  have hx : (!fitsSigned x) = true ↔ x < -(2 ^ 31) ∨ 2 ^ 31 - 1 < x := by
    simp only [fitsSigned, Bool.not_eq_true', Bool.and_eq_false_iff, decide_eq_false_iff_not]
    omega
  rw [Psr.stickyQ, qIf]
  simp only [hx]

theorem Psr.withQ_withQ (p : Word) (q q' : Bool) : Psr.withQ (Psr.withQ p q) q' = Psr.withQ p q' := by
  refine BitVec.eq_of_getLsbD_eq fun k hk => ?_
  simp only [Psr.getLsbD_withQ _ _ _ hk]
  split <;> rfl

/-- Two overflows of one instruction set Q as one after the other (R169, R171). -/
theorem Psr.stickyQ_or (p : Word) (x y : Bool) : Psr.stickyQ p (x || y) = Psr.stickyQ (Psr.stickyQ p x) y := by
  cases x
  case false => rfl
  case true => cases y <;> simp [Psr.stickyQ, Psr.withQ_withQ]

/-- A saturating instruction that runs writes the clamped result and Q (R168). -/
theorem registersOnly_writeSaturated_eq {c : Cond} {named : List Reg} {rd : Reg} {s : State} (x : State → Int)
    (q : State → Bool) (hr : s.runs c named = true) (hp : 15#4 ∉ named) (hrd : rd ≠ 15#4) :
    registersOnly c named false s (fun s => writeSaturated rd (x s) (q s) s) =
      .next (s.wrote rd (BitVec.ofInt 32 (clamp (x (s.withUserXfer false))))
        (Psr.stickyQ s.cpsr (q (s.withUserXfer false)))) := by
  rw [registersOnly_eq c named false s _ hr hp rfl (by exact writeSaturated_pc hrd _ _ _),
    writeSaturated_eq, sat_eq_ofInt_clamp, State.setReg_eq _ _ _ hrd]
  rfl

/-- Settles O27: the frame of a saturating instruction, with the exact result and the overflows of each of the four. -/
theorem saturatingResults : Obligations.SaturatingResults := by
  rintro c rn rd rm s _ _ _ hr hrn hrd hrm rfl rfl rfl
  obtain ⟨hs, hn⟩ := (s.runs_iff_starts c _).mp hr
  have hruns : s.runs c [rd, rm, rn] = true := (s.runs_iff_starts c _).mpr ⟨State.starts_of_subset hs (by simp), hn⟩
  have hp : 15#4 ∉ [rd, rm, rn] := by simp [hrn.symm, hrd.symm, hrm.symm]
  have hdoubled : clamp (2 * (s.reg rn).toInt) = (sat (doubled (s.reg rn))).toInt := (toInt_sat_eq_clamp _).symm
  simp only [hdoubled, ← Psr.stickyQ_not_fitsSigned, ← Psr.stickyQ_or]
  and_intros <;> exact registersOnly_writeSaturated_eq _ _ hruns hp hrd

end Sys2Proof.Machine

namespace Sys2Proof

open Sys2Proof.Machine

/-! ## Arithmetic by name -/

/-- The result, C and V of an arithmetic instruction (R161 to R167). -/
theorem ArithmeticName.aluResult_eq (k : ArithmeticName) (rn : Reg) (o : Operand2) (s : State) :
    aluResult (DpName.arithmetic k).op (some rn) o s
      = ⟨BitVec.ofInt 32 (k.exact (s.reg rn).toInt (operand2Eval o s).1.toInt (Psr.c s.cpsr)),
        k.carry (s.reg rn) (operand2Eval o s).1 (Psr.c s.cpsr),
        k.overflow (s.reg rn) (operand2Eval o s).1 (Psr.c s.cpsr)⟩ := by
  simp only [aluResult, firstOperand]
  cases k
  case add | adc =>
    simp only [DpName.op, addOp, adcOp, arithmeticOp, addWithCarry_exact, Bool.toNat_false, Int.natCast_zero,
      Int.add_zero]
    rfl
  case sub | sbc | rsb | rsc =>
    simp only [DpName.op, subOp, sbcOp, rsbOp, rscOp, arithmeticOp, addWithCarry_not, Bool.toNat_true, Int.natCast_one,
      Int.sub_self, Int.sub_zero]
    rfl

/-- Settles O20: the frame of data processing, with the result and the flags of the name. -/
theorem arithmeticResults : Obligations.ArithmeticResults := by
  rintro k c sf rn rd o s _ _ _ _ hr hp hd rfl rfl rfl rfl
  rw [show exec (k.instr c sf rn rd o) s = _ from (DpName.arithmetic k).exec_instr c sf rn rd o s]
  refine (dataProcessing_eq _ c sf rd (some rn) o s hr hp hd).trans ?_
  rw [k.aluResult_eq]

end Sys2Proof

/-!
PROOFS. Multiplies: the words that the multiplies write, in bit-vector arithmetic; their frame; the count of leading
zeros; and what every instruction refuses that takes general registers only.
-/

namespace Sys2Proof.Machine

/-! ## Products and sums (R181 to R191) -/

theorem ofNat_toNat_mul_toNat {n m : Nat} (w : Nat) (a : BitVec n) (b : BitVec m) :
    BitVec.ofNat w (a.toNat * b.toNat) = a.setWidth w * b.setWidth w := by
  rw [BitVec.ofNat_mul, BitVec.ofNat_toNat, BitVec.ofNat_toNat]

theorem ofInt_toInt_mul_toInt {n m : Nat} (w : Nat) (a : BitVec n) (b : BitVec m) :
    BitVec.ofInt w (a.toInt * b.toInt) = a.signExtend w * b.signExtend w := by
  rw [BitVec.ofInt_mul, BitVec.signExtend, BitVec.signExtend]

theorem ofNat_toNat_add {w : Nat} (a : BitVec w) (x : Nat) : BitVec.ofNat w (a.toNat + x) = a + BitVec.ofNat w x := by
  rw [BitVec.ofNat_add, BitVec.ofNat_toNat, BitVec.setWidth_eq]

theorem ofInt_toInt_add {w : Nat} (a : BitVec w) (x : Int) : BitVec.ofInt w (a.toInt + x) = a + BitVec.ofInt w x := by
  rw [BitVec.ofInt_add, BitVec.ofInt_toInt]

theorem signedHalf_eq (v : Word) (top : Bool) : signedHalf v top = (halfOf v top).toInt := by cases top <;> rfl

/-- Bits 47:16 of the product of a word and a half, as a product of 48-bit words (R188). -/
theorem product48_toInt (a : Word) (h : Half) :
    product48 a h.toInt = (a.signExtend 48 * h.signExtend 48).extractLsb' 16 32 := by
  rw [product48, ofInt_toInt_mul_toInt]

/-! ## Flags (R193) -/

theorem Psr.setNZ_if (sf : Bool) (p result : Word) :
    (if sf then Psr.setNZ p result else p) = flagsIf sf p result (Psr.c p) (Psr.v p) := by
  cases sf
  case false => rfl
  case true => exact Psr.setNZCV_eq_flagsIf ..

theorem Psr.setNZ64_if (sf : Bool) (p : Word) (result : BitVec 64) :
    (if sf then Psr.setNZ64 p result else p) = flagsIf64 sf p result := by
  simp only [Psr.setNZ64, flagsIf64, Bool.beq_eq_decide_eq]

/-! ## The frame of the general registers (R180) -/

theorem State.runs_of_subset {s : State} {c : Cond} {l l' : List Reg} (h : s.runs c l = true) (hl : l' ⊆ l) :
    s.runs c l' = true := by
  rw [State.runs_iff_starts] at h ⊢
  exact h.imp_left fun hs => State.starts_of_subset hs hl

section Runs

variable {c : Cond} {named : List Reg} {clash : Bool} {s : State} (hr : s.runs c named = true) (hp : 15#4 ∉ named)
  (hk : clash = false)
include hr hp hk

/-- An instruction that runs and whose effect is to write general registers and the CPSR. -/
theorem registersOnly_wrote {effect : State → State} {g : Vector Word 30} {p : Word}
    (he : effect (s.withUserXfer false) = ((s.withUserXfer false).withGpr g).withCpsr p) :
    registersOnly c named clash s effect = .next { s.advanced with gpr := g, cpsr := p } := by
  rw [registersOnly_eq c named clash s effect hr hp hk (by rw [he]; rfl), he]
  rfl

theorem registersOnly_setReg_eq {rd : Reg} {v : State → Word} {w : Word} (hrd : rd ≠ 15#4)
    (hv : v (s.withUserXfer false) = w) :
    registersOnly c named clash s (fun s => s.setReg rd (v s)) = .next (s.wrote rd w s.cpsr) :=
  registersOnly_wrote hr hp hk (by rw [hv, State.setReg_eq _ _ _ hrd]; rfl)

theorem registersOnly_writeProduct_eq {sf : Bool} {rd : Reg} {v : State → Word} {w : Word} (hrd : rd ≠ 15#4)
    (hv : v (s.withUserXfer false) = w) :
    registersOnly c named clash s (fun s => writeProduct sf rd (v s) s) =
      .next (s.wrote rd w (flagsIf sf s.cpsr w (Psr.c s.cpsr) (Psr.v s.cpsr))) :=
  registersOnly_wrote hr hp hk (by rw [hv, writeProduct_eq, Psr.setNZ_if, State.setReg_eq _ _ _ hrd]; rfl)

theorem registersOnly_writeLong_eq {sf : Bool} {hi lo : Reg} {v : State → BitVec 64} {w : BitVec 64}
    (hhi : hi ≠ 15#4) (hlo : lo ≠ 15#4) (hv : v (s.withUserXfer false) = w) :
    registersOnly c named clash s (fun s => writeLong sf hi lo (v s) s) =
      .next (s.wrotePair hi lo w (flagsIf64 sf s.cpsr w)) :=
  registersOnly_wrote hr hp hk (by
    rw [hv, writeLong_eq, Psr.setNZ64_if, State.setReg_eq _ _ _ hhi, State.setReg_eq _ _ _ hlo]; rfl)

/-- An accumulating instruction writes the wrapped sum, and Q when it does not fit (R189). -/
theorem registersOnly_writeAccumulated_eq {rd : Reg} {x : State → Int} {y : Int} {w : Word} (hrd : rd ≠ 15#4)
    (hx : x (s.withUserXfer false) = y) (hw : BitVec.ofInt 32 y = w) :
    registersOnly c named clash s (fun s => writeAccumulated rd (x s) s) = .next (s.wrote rd w (qIf s.cpsr y)) :=
  registersOnly_wrote hr hp hk (by
    rw [hx, writeAccumulated_eq, Psr.stickyQ_not_fitsSigned, hw, State.setReg_eq _ _ _ hrd]; rfl)

end Runs

/-- Settles O28: the frame of a 32-bit product, for MUL with the registers that it names. -/
theorem multiplyResults : Obligations.MultiplyResults := by
  rintro c sf rd rn rs rm s _ _ hr hrd hrn hrs hrm hne rfl rfl
  have hp : 15#4 ∉ [rd, rn, rs, rm] := by simp [hrd.symm, hrn.symm, hrs.symm, hrm.symm]
  have hsub : [rd, rs, rm] ⊆ [rd, rn, rs, rm] := by simp
  have hk : (rd == rm) = false := beq_false_of_ne hne
  have hproduct : BitVec.ofNat 32 ((s.reg rm).toNat * (s.reg rs).toNat) = s.reg rm * s.reg rs := by
    rw [ofNat_toNat_mul_toNat, BitVec.setWidth_eq, BitVec.setWidth_eq]
  refine ⟨registersOnly_writeProduct_eq (State.runs_of_subset hr hsub) (mt (@hsub _) hp) hk hrd hproduct,
    registersOnly_writeProduct_eq hr hp hk hrd ?sum⟩
  case sum => rw [BitVec.ofNat_add, BitVec.ofNat_toNat, BitVec.setWidth_eq]; exact congrArg (· + s.reg rn) hproduct

/-- Settles O29: the frame of a 64-bit result, with the unsigned, the signed and the half-word products. -/
theorem longMultiplyResults : Obligations.LongMultiplyResults := by
  rintro c sf x y hi lo rs rm s _ hr hhi hlo hrs hrm hne rfl
  have hp : 15#4 ∉ [hi, lo, rs, rm] := by simp [hhi.symm, hlo.symm, hrs.symm, hrm.symm]
  refine ⟨fun hne₁ hne₂ => ?long, ?halves⟩
  case long =>
    have hk : longClash hi lo rm = false := by simp [longClash, hne, hne₁, hne₂]
    refine ⟨?unsigned, ?signed⟩
    case unsigned =>
      rintro _ rfl
      exact ⟨registersOnly_writeLong_eq hr hp hk hhi hlo (ofNat_toNat_mul_toNat ..),
        registersOnly_writeLong_eq hr hp hk hhi hlo ((ofNat_toNat_add ..).trans (by rw [ofNat_toNat_mul_toNat]; rfl))⟩
    case signed =>
      rintro _ rfl
      exact ⟨registersOnly_writeLong_eq hr hp hk hhi hlo (ofInt_toInt_mul_toInt ..),
        registersOnly_writeLong_eq hr hp hk hhi hlo ((ofInt_toInt_add ..).trans (by rw [ofInt_toInt_mul_toInt]; rfl))⟩
  case halves =>
    refine registersOnly_writeLong_eq hr hp (beq_false_of_ne hne) hhi hlo ?_
    rw [ofInt_toInt_add, signedHalf_eq, signedHalf_eq, ofInt_toInt_mul_toInt]
    rfl

/-- Settles O30: the frames of one register and of an accumulated product, with the products of halves. -/
theorem halfMultiplyResults : Obligations.HalfMultiplyResults := by
  rintro c x y rd rn rs rm s _ _ hr hrd hrn hrs hrm rfl rfl
  have hp : 15#4 ∉ [rd, rn, rs, rm] := by simp [hrd.symm, hrn.symm, hrs.symm, hrm.symm]
  have hsub : [rd, rs, rm] ⊆ [rd, rn, rs, rm] := by simp
  have hr' := State.runs_of_subset hr hsub
  have hp' := mt (@hsub _) hp
  have hhalves : signedHalf (s.reg rm) x * signedHalf (s.reg rs) y
      = (halfOf (s.reg rm) x).toInt * (halfOf (s.reg rs) y).toInt := by rw [signedHalf_eq, signedHalf_eq]
  have hword : product48 (s.reg rm) (signedHalf (s.reg rs) y)
      = ((s.reg rm).signExtend 48 * (halfOf (s.reg rs) y).signExtend 48).extractLsb' 16 32 := by
    rw [signedHalf_eq, product48_toInt]
  refine ⟨registersOnly_setReg_eq hr' hp' rfl hrd ?smulxy, registersOnly_setReg_eq hr' hp' rfl hrd hword,
    registersOnly_writeAccumulated_eq hr hp rfl hrd (congrArg ((s.reg rn).toInt + ·) hhalves) ?smlaxy,
    registersOnly_writeAccumulated_eq hr hp rfl hrd (congrArg ((s.reg rn).toInt + ·.toInt) hword) ?smlawy⟩
  case smulxy => exact (congrArg (BitVec.ofInt 32) hhalves).trans (ofInt_toInt_mul_toInt ..)
  case smlaxy => rw [ofInt_toInt_add, ofInt_toInt_mul_toInt]
  case smlawy => rw [ofInt_toInt_add, BitVec.ofInt_toInt]

/-! ## Leading zeros (R192) -/

theorem leadingZeros_le (x : Word) (n : Nat) : leadingZeros x n ≤ n := by
  induction n with
  | zero => exact Nat.le_refl 0
  | succ n ih =>
    rw [leadingZeros]
    split
    · exact Nat.zero_le _
    · exact Nat.succ_le_succ ih

/-- The bits that are counted are 0. -/
theorem getLsbD_of_lt_leadingZeros (x : Word) {n j : Nat} (h : j < leadingZeros x n) :
    x.getLsbD (n - 1 - j) = false := by
  induction n generalizing j with
  | zero => cases h
  | succ n ih =>
    rw [leadingZeros] at h
    split at h
    case isTrue => cases h
    case isFalse hbit =>
      cases j with
      | zero => exact Bool.eq_false_iff.mpr hbit
      | succ j =>
        rw [show n + 1 - 1 - (j + 1) = n - 1 - j by omega]
        exact ih (Nat.lt_of_succ_lt_succ h)

/-- The count ends at a 1. -/
theorem getLsbD_leadingZeros (x : Word) {n : Nat} (h : leadingZeros x n < n) :
    x.getLsbD (n - 1 - leadingZeros x n) = true := by
  induction n with
  | zero => cases h
  | succ n ih =>
    rw [leadingZeros] at h ⊢
    split
    case isTrue hbit => exact hbit
    case isFalse hbit =>
      rw [if_neg hbit] at h
      rw [show n + 1 - 1 - (leadingZeros x n + 1) = n - 1 - leadingZeros x n by omega]
      exact ih (Nat.lt_of_succ_lt_succ h)

/-- Settles O31: the number is `leadingZeros` of the 32 bits. -/
theorem countLeadingZeros : Obligations.CountLeadingZeros := by
  intro c rd rm s hr hrd hrm
  have hp : 15#4 ∉ [rd, rm] := by simp [hrd.symm, hrm.symm]
  exact ⟨leadingZeros (s.reg rm) 32, leadingZeros_le .., fun _ => getLsbD_of_lt_leadingZeros _,
    getLsbD_leadingZeros _, registersOnly_setReg_eq hr hp rfl hrd rfl⟩

/-! ## Register restrictions (R142, R143, R168 to R171, R180, R192, R301, R302) -/

section Restrictions

variable {c : Cond} {s : State}

theorem registersOnly_pcOperand {named : List Reg} {clash : Bool} {effect : State → State}
    (hs : s.starts c named = true) (hp : 15#4 ∈ named) :
    registersOnly c named clash s effect = .refused .pcOperand := by
  rw [registersOnly, conditional_starts hs, if_pos (List.contains_iff_mem.mpr hp)]

theorem registersOnly_sameRegister {named : List Reg} {clash : Bool} {effect : State → State}
    (hs : s.starts c named = true) (hp : 15#4 ∉ named) (hk : clash = true) :
    registersOnly c named clash s effect = .refused .sameRegister := by
  rw [registersOnly, conditional_starts hs, if_neg (mt List.contains_iff_mem.mp hp), if_pos hk]

theorem swap_pcOperand {z : Size} {rn rd rm : Reg} (hs : s.starts c [rn, rd, rm] = true) (hp : 15#4 ∈ [rn, rd, rm]) :
    swap z c rn rd rm s = .refused .pcOperand := by
  rw [swap, conditional_starts hs, if_pos (by simpa [eq_comm] using hp)]

theorem swap_sameRegister {z : Size} {rn rd rm : Reg} (hs : s.starts c [rn, rd, rm] = true)
    (hp : 15#4 ∉ [rn, rd, rm]) (hk : (rn == rm || rn == rd) = true) :
    swap z c rn rd rm s = .refused .sameRegister := by
  rw [swap, conditional_starts hs, if_neg (by simpa [eq_comm] using hp), if_pos (by simpa using hk)]

theorem execMrsSpsr_pcOperand {rd : Reg} (hs : s.starts c [rd] = true) (hp : 15#4 ∈ [rd]) :
    execMrsSpsr c rd s = .refused .pcOperand := by
  rw [execMrsSpsr, conditional_starts hs, if_pos (List.mem_singleton.mp hp).symm]

variable {i : Instr} (hf : i.forbidsPc = true) (hc : i.condition = some c) (hs : s.starts c i.named = true)
include hf hc hs

/-- An instruction that takes general registers only is refused when it names R15. -/
theorem exec_forbidsPc_pcOperand (hp : 15#4 ∈ i.named) : exec i s = .refused .pcOperand := by
  cases i with
  | mul | mla | umull | umlal | smull | smlal | smlalxy | smlaxy | smlawy | smulwy | smulxy | clz | mrsCpsr =>
    cases hc
    exact registersOnly_pcOperand hs hp
  | qadd c' rn rd rm | qsub c' rn rd rm | qdadd c' rn rd rm | qdsub c' rn rd rm =>
    cases hc
    have hsub : [rd, rm, rn] ⊆ [rn, rd, rm] := by simp
    have hsup : [rn, rd, rm] ⊆ [rd, rm, rn] := by simp
    exact registersOnly_pcOperand (State.starts_of_subset hs hsub) (hsup hp)
  | mrsSpsr =>
    cases hc
    exact execMrsSpsr_pcOperand hs hp
  | swp | swpb =>
    cases hc
    exact swap_pcOperand hs hp
  | _ => cases hf

/-- Of these the products and the swaps are refused when two of their registers coincide that may not. -/
theorem exec_forbidsPc_sameRegister (hp : 15#4 ∉ i.named) (hk : i.clashes = true) :
    exec i s = .refused .sameRegister := by
  cases i with
  | mul | mla | umull | umlal | smull | smlal | smlalxy =>
    cases hc
    exact registersOnly_sameRegister hs hp hk
  | swp | swpb =>
    cases hc
    exact swap_sameRegister hs hp hk
  | smlaxy | smlawy | smulwy | smulxy | clz | mrsCpsr | mrsSpsr | qadd | qsub | qdadd | qdsub => cases hk
  | _ => cases hf

end Restrictions

/-- Settles O32: R15 is refused first, then registers that coincide. -/
theorem registerRestrictionsRefused : Obligations.RegisterRestrictionsRefused :=
  fun _ _ _ hf hc hs => ⟨exec_forbidsPc_pcOperand hf hc hs, exec_forbidsPc_sameRegister hf hc hs⟩

end Sys2Proof.Machine

/-!
PROOFS. Tests, compares and NOP: the frame of TST, TEQ, CMP and CMN with the actions whose flags they set, NOP, and the
words that the spec writes out.
-/

namespace Sys2Proof.Machine

/-! ## NOP -/

/-- An instruction that names no register is never held back by a user-register transfer (R403). -/
@[simp] theorem State.mayName_nil (s : State) : s.mayName [] = true := by
  rw [State.mayName, List.any_nil, Bool.and_false, Bool.not_false]

/-- NOP ends as sequential execution does, and ends the memory of a user-register transfer (R206, R403). -/
theorem exec_nop (s : State) : exec .nop s = advance (s.withUserXfer false) :=
  always_eq [] s advance s.mayName_nil

end Sys2Proof.Machine

namespace Sys2Proof

open Sys2Proof.Machine

/-! ## Tests and compares by name -/

/-- A test or compare that runs sets the flags of its operation's result and drops the result (R144). -/
theorem CompareName.exec_eq {k : CompareName} {c : Cond} {rn : Reg} {o : Operand2} {s : State} {result : Word}
    {carry v : Bool} (hr : s.runs c (rn :: operand2Regs o) = true) (hp : namesPc (rn :: operand2Regs o) o = false)
    (h : aluResult k.op (some rn) o s = ⟨result, carry, v⟩) :
    exec (k.instr c rn o) s = .next { s.advanced with cpsr := flagsIf true s.cpsr result carry v } := by
  rw [k.exec_instr, compare_eq _ c rn o s hr hp, h]

/-- CMP takes the difference of SUB (R208), as a word the bit-vector difference; it does not read C. -/
theorem aluResult_cmpOp (rn : Reg) (o : Operand2) (s : State) :
    aluResult cmpOp (some rn) o s =
      ⟨s.reg rn - (operand2Eval o s).1, ArithmeticName.sub.carry (s.reg rn) (operand2Eval o s).1 false,
        ArithmeticName.sub.overflow (s.reg rn) (operand2Eval o s).1 false⟩ := by
  have hword (a b : Word) : BitVec.ofInt 32 (a.toInt - b.toInt) = a - b := by
    rw [Int.sub_eq_add_neg, ofInt_toInt_add, BitVec.ofInt_neg, BitVec.ofInt_toInt, BitVec.sub_eq_add_neg]
  rw [← hword]
  exact ArithmeticName.sub.aluResult_eq rn o s

/-- CMN takes the sum of ADD (R209), as a word the bit-vector sum; it does not read C. -/
theorem aluResult_cmnOp (rn : Reg) (o : Operand2) (s : State) :
    aluResult cmnOp (some rn) o s =
      ⟨s.reg rn + (operand2Eval o s).1, ArithmeticName.add.carry (s.reg rn) (operand2Eval o s).1 false,
        ArithmeticName.add.overflow (s.reg rn) (operand2Eval o s).1 false⟩ := by
  have hword (a b : Word) : BitVec.ofInt 32 (a.toInt + b.toInt) = a + b := by
    rw [ofInt_toInt_add, BitVec.ofInt_toInt]
  rw [← hword]
  exact ArithmeticName.add.aluResult_eq rn o s

/-- Settles O21: the frame of a compare, with the action of AND, EOR, SUB and ADD. -/
theorem testAndCompareFlags : Obligations.TestAndCompareFlags := by
  rintro c rn o s _ b carry hr hp rfl ho
  obtain ⟨rfl, rfl⟩ : b = (operand2Eval o s).1 ∧ carry = (operand2Eval o s).2 := Prod.ext_iff.mp ho
  exact ⟨CompareName.exec_eq (k := .tst) hr hp (LogicalName.and.aluResult_eq rn o s),
    CompareName.exec_eq (k := .teq) hr hp (LogicalName.eor.aluResult_eq rn o s),
    CompareName.exec_eq (k := .cmp) hr hp (aluResult_cmpOp rn o s),
    CompareName.exec_eq (k := .cmn) hr hp (aluResult_cmnOp rn o s)⟩

/-! ## Words of the spec and NOP -/

theorem decode_nop : decode 0xE1A00000#32 = .ok .nop := rfl

/-- Settles O9: the decoder is run on the words other than that of NOP. -/
theorem decodesWordsOfTheSpec : Obligations.DecodesWordsOfTheSpec :=
  ⟨decode_nop, rfl, rfl, rfl, rfl, rfl, rfl, rfl, rfl, rfl, rfl, rfl⟩

/-- Settles O26: NOP is sequential execution only. -/
theorem nopOnlyAdvances : Obligations.NopOnlyAdvances := by
  refine ⟨fun s hn => ?_, decode_nop, rfl⟩
  rw [exec_nop, advance_eq _ (by exact hn)]
  rfl

end Sys2Proof

/-!
PROOFS. Branches: the target of B, BL and BLX label as a signed distance, the link, the two outcomes of an exchanging
branch, and the five branch instructions.
-/

namespace Sys2Proof.Machine

/-! ## The target of a branch (R220) -/

theorem wordAligned_add_four_mul {a : Word} (h : wordAligned a = true) (x : Int) :
    wordAligned (a + BitVec.ofInt 32 (4 * x)) = true := by
  rw [wordAligned_iff] at *
  rw [BitVec.toNat_add, BitVec.toNat_ofInt]
  omega

/-- The field, shifted left by two after its sign extension, is four times its signed value. -/
theorem branchTarget_eq (pc : Word) (imm : BitVec 24) :
    branchTarget pc imm = pc + 8#32 + BitVec.ofInt 32 (4 * imm.toInt) := by
  rw [branchTarget, BitVec.shiftLeft_eq_mul_twoPow, BitVec.mul_comm, BitVec.ofInt_mul]
  rfl

theorem branchTo_branchTarget {pc : Word} (h : wordAligned pc = true) (imm : BitVec 24) (s : State) :
    branchTo (branchTarget pc imm) s = .next (s.withPc (pc + 8#32 + BitVec.ofInt 32 (4 * imm.toInt))) := by
  have aligned : wordAligned (pc + 8#32) = true := wordAligned_add_four_mul h 2
  rw [branchTarget_eq, branchTo_eq _ _ (wordAligned_add_four_mul aligned _)]

/-- The H bit of BLX label adds a halfword to the distance (R223). -/
theorem branchTarget_add_halfword (pc : Word) (imm : BitVec 24) (h : Bool) :
    branchTarget pc imm + (if h then 2#32 else 0#32)
      = pc + 8#32 + BitVec.ofInt 32 (4 * imm.toInt + if h then 2 else 0) := by
  rw [branchTarget_eq, BitVec.ofInt_add, BitVec.add_assoc (pc + 8#32)]
  cases h <;> rfl

/-! ## The link (R221, R226) -/

theorem linked_eq (s : State) : linked s = s.withGpr (s.gprWith 14#4 (s.pc + 4#32)) :=
  s.setReg_eq _ _ (by decide)

/-! ## Exchanging branches (R222) -/

/-- The low bits of an address that is neither a Thumb one nor an aligned ARM one. -/
theorem extractLsb'_eq_two_iff (v : Word) :
    v.extractLsb' 0 2 = 0b10#2 ↔ v.getLsbD 0 = false ∧ v.getLsbD 1 = true := by
  constructor
  · intro h
    exact ⟨by simpa using congrArg (·.getLsbD 0) h, by simpa using congrArg (·.getLsbD 1) h⟩
  · rintro ⟨h0, h1⟩
    refine BitVec.eq_of_getLsbD_eq fun k hk => ?_
    obtain rfl | rfl : k = 0 ∨ k = 1 := by omega
    · simpa using h0
    · simpa using h1

section Exchange

variable {v : Word} (s : State)

theorem branchExchange_misaligned (h : v.extractLsb' 0 2 = 0b10#2) :
    branchExchange v s = .refused .misalignedBranch := by
  obtain ⟨h0, h1⟩ := (extractLsb'_eq_two_iff v).mp h
  rw [branchExchange, h0, h1]
  rfl

theorem branchExchange_eq_append (h : v.extractLsb' 0 2 ≠ 0b10#2) :
    branchExchange v s =
      .next ((s.withCpsr (Psr.withT s.cpsr (v.getLsbD 0))).withPc (v.extractLsb' 1 31 ++ 0b0#1)) := by
  have hbits : v.getLsbD 0 = true ∨ v.getLsbD 1 = false := by
    rw [Ne, extractLsb'_eq_two_iff, Decidable.not_and_iff_not_or_not, Bool.not_eq_false, Bool.not_eq_true] at h
    exact h
  rw [branchExchange_eq v s hbits, clearBit0_eq_append]

end Exchange

/-! ## The five instructions -/

/-- Settles O37: both go to `branchTarget`, which is aligned as R15 is, BL after the link. -/
theorem branchResults : Obligations.BranchResults := by
  rintro c imm s _ ha rfl
  refine ⟨fun hs => (conditional_starts hs _).trans (branchTo_branchTarget ha imm _), fun hs => ?bl⟩
  case bl =>
    have hbranch := branchTo_branchTarget ha imm (linked (s.withUserXfer false))
    rw [linked_eq (s.withUserXfer false)] at hbranch
    exact (conditional_starts hs _).trans hbranch

/-- Settles O38: the low bits of Rm decide an exchanging branch; BLX reads Rm before the link, and its label form is
neither conditional nor refused. -/
theorem branchExchangeResults : Obligations.BranchExchangeResults := by
  rintro c rm s _ rfl
  refine ⟨fun hs => ⟨fun hm => ?bxRefused, fun hm => ?bx⟩,
    fun hs => ⟨fun hpc => ?blxPc, fun hpc hm => ?blxRefused, fun hpc hm => ?blx⟩, fun h imm hn => ?blxLabel⟩
  case bxRefused => exact (conditional_starts hs _).trans (branchExchange_misaligned _ hm)
  case bx => exact (conditional_starts hs _).trans (branchExchange_eq_append _ hm)
  case blxPc => exact (conditional_starts hs _).trans (if_pos hpc)
  case blxRefused =>
    exact (conditional_starts hs _).trans ((if_neg hpc).trans (branchExchange_misaligned _ hm))
  case blx =>
    have hbranch := branchExchange_eq_append (linked (s.withUserXfer false)) hm
    rw [linked_eq (s.withUserXfer false)] at hbranch
    exact (conditional_starts hs _).trans ((if_neg hpc).trans hbranch)
  case blxLabel =>
    change execBlxLabel h imm s = _
    rw [execBlxLabel, always_eq _ _ _ hn, linked_eq, State.withUserXfer_pc, branchTarget_add_halfword]
    rfl

end Sys2Proof.Machine

/-!
PROOFS. Single-register loads and stores: the value of a load from its bytes, the writeback of a form that is allowed,
the value of a store; loads, LDR to R15 and stores from them; and the register restrictions.
-/

namespace Sys2Proof.Machine

/-! ## The value of a load (R69) -/

theorem extractLsb'_setWidth_self {n w : Nat} (x : BitVec n) (h : n ≤ w) : (x.setWidth w).extractLsb' 0 n = x := by
  rw [← BitVec.setWidth_eq_extractLsb' h, BitVec.setWidth_setWidth_of_le x h, BitVec.setWidth_eq]

/-- A load extends the bytes of its access, lowest first (R62, R69). -/
theorem SingleOp.extend_load (op : SingleOp) (m : Memory) (a : Word) :
    op.extend (m.load op.size a) = op.loaded fun k => m.get (a + BitVec.ofNat 32 k).toNat := by
  cases op with
  | ldrsb | ldrsh => exact congrArg (BitVec.signExtend 32) (extractLsb'_setWidth_self _ (by decide))
  | _ => rfl

theorem SingleOp.privilege_of_isLoad {op : SingleOp} (s : State) (h : op.isLoad = true) :
    op.privilege s = if op ∈ [.ldrt, .ldrbt] then false else s.privileged := by
  cases op with
  | str | strt | strb | strbt | strh => cases h
  | _ => rfl

theorem SingleOp.privilege_of_isStore {op : SingleOp} (s : State) (h : op.isLoad = false) :
    op.privilege s = if op ∈ [.strt, .strbt] then false else s.privileged := by
  cases op with
  | ldr | ldrt | ldrPc | ldrb | ldrbt | ldrsb | ldrh | ldrsh => cases h
  | _ => rfl

/-! ## Transfers that may be made -/

section Transfers

variable {i : Instr} {t : Transfer} {s : State}

/-- The writeback of a form that is allowed, whatever the access did to memory (R240). -/
theorem Transfer.writeBack_eq {u : State} (ha : t.allowed = true) (hcpsr : u.cpsr = s.cpsr) (hgpr : u.gpr = s.gpr) :
    u.writeBack (writesBack t.ix) t.rn (t.index s) = u.withGpr (t.baseWritten s) := by
  have bank : u.bank = s.bank := by rw [State.bank, hcpsr, State.bank]
  have written (hw : writesBack t.ix = true) : u.setReg t.rn (t.index s) = u.withGpr (s.gprWith t.rn (t.index s)) := by
    simp only [u.setReg_eq _ _ (base_ne_pc_of_allowed ha hw), State.gprWith, hgpr, bank]
  unfold Transfer.baseWritten
  cases hix : t.ix
  case offset => rw [if_pos rfl, ← hgpr]; rfl
  all_goals exact written (by rw [hix]; rfl)

/-- A load that may be made ends with the writeback done and the loaded data at hand (R240). -/
theorem exec_transfer_load (hi : i.transfer = some t) (hs : s.starts t.c t.named = true) (ha : t.allowed = true)
    (hl : t.op.isLoad = true) (h : s.canAccess t.op.size (t.address s) .read (t.op.privilege s) = true) :
    exec i s = finishLoad t.op t.rd (s.mem.load t.op.size (t.address s))
      ((s.withUserXfer false).withGpr (t.baseWritten s)) := by
  rw [exec_transfer hi, Transfer.singleTransfer_allowed hs ha, singleAccess_load hl (by exact h)]
  exact congrArg (finishLoad _ _ _) (Transfer.writeBack_eq ha rfl rfl)

/-- A store that may be made ends with memory and the base written (R240). -/
theorem exec_transfer_store (hi : i.transfer = some t) (hs : s.starts t.c t.named = true) (ha : t.allowed = true)
    (hl : t.op.isLoad = false) (h : s.canAccess t.op.size (t.address s) .write (t.op.privilege s) = true) :
    exec i s = advance (((s.withUserXfer false).stored t.op.size (t.address s) (s.storedReg s.bank t.rd)).withGpr
      (t.baseWritten s)) := by
  rw [exec_transfer hi, Transfer.singleTransfer_allowed hs ha, singleAccess_store hl (by exact h)]
  exact congrArg advance (Transfer.writeBack_eq ha rfl rfl)

end Transfers

/-! ## Register restrictions (R246) -/

theorem SingleOp.allowsPc_eq (op : SingleOp) : op.allowsPc = (op == .str || op == .ldrPc) := by
  cases op <;> rfl

theorem writesBack_eq (ix : IndexMode) : writesBack ix = (ix != .offset) := by
  cases ix <;> rfl

/-- A form that breaks R246 has a restriction: a conflict of the writeback, or R15 where it may not be. When none of the
machine's three checks holds, the form is allowed. -/
theorem Transfer.restriction_of_not_allowed {t : Transfer} (h : t.allowed = false) :
    ∃ r, singleRestriction t.op (writesBack t.ix) t.rn t.rd (offsetReg t.off) = some r
      ∧ (r = .writebackConflict ∨ r = .pcOperand) := by
  unfold singleRestriction
  split; · exact ⟨_, rfl, .inl rfl⟩
  next hbase =>
  split; · exact ⟨_, rfl, .inr rfl⟩
  next hoff =>
  split; · exact ⟨_, rfl, .inr rfl⟩
  next hrd =>
  rw [writesBack_eq] at hbase
  rw [SingleOp.allowsPc_eq] at hrd
  grind [Transfer.allowed]

/-- A form with a restriction is refused before its access, with the restriction's name. -/
theorem exec_transfer_restricted {i : Instr} {t : Transfer} {s : State} {r : Refusal} (hi : i.transfer = some t)
    (hs : s.starts t.c t.named = true)
    (h : singleRestriction t.op (writesBack t.ix) t.rn t.rd (offsetReg t.off) = some r) : exec i s = .refused r := by
  rw [exec_transfer hi, singleTransfer, conditional_starts (by exact hs)]
  simp only [h]

/-! ## Loads, stores and their restrictions -/

/-- Settles O40: the load ends with its base written (`exec_transfer_load`), then Rd is. -/
theorem loadResults : Obligations.LoadResults := by
  intro i t s p hi hl hop ha hr hp h
  obtain ⟨hs, hn⟩ := (s.runs_iff_starts t.c t.named).mp hr
  rw [hp, ← t.op.privilege_of_isLoad s hl] at h
  rw [exec_transfer_load hi hs ha hl h, finishLoad, if_neg hop, t.op.extend_load,
    State.setReg_eq _ _ _ (Transfer.rd_ne_pc_of_allowed ha hl hop), advance_eq _ (by exact hn)]
  rfl

/-- Settles O41: the load ends with its base written, then the loaded word decides an exchanging branch. -/
theorem loadToPcResults : Obligations.LoadToPcResults := by
  intro i t s data hi hop ha hs h hdata
  have hl : t.op.isLoad = true := by rw [hop]; rfl
  rw [exec_transfer_load hi hs ha hl (by rw [hop]; exact h), finishLoad, if_pos hop, hop]
  subst hdata
  split
  case isTrue hm => exact branchExchange_misaligned _ hm
  case isFalse hm => exact branchExchange_eq_append _ hm

/-- Settles O42: the store ends with memory and its base written (`exec_transfer_store`); which bytes those are is a
law of `Memory.store`. -/
theorem storeResults : Obligations.StoreResults := by
  intro i t s v p hi hl ha hr hp h hv
  refine ⟨?next, fun k hk => s.mem.get_store t.op.size (t.address s) v hk,
    fun x hx => s.mem.get_store_of_notMem t.op.size (t.address s) v x hx⟩
  case next =>
    obtain ⟨hs, hn⟩ := (s.runs_iff_starts t.c t.named).mp hr
    have stored : s.storedReg s.bank t.rd = v := hv.symm
    rw [hp, ← t.op.privilege_of_isStore s hl] at h
    rw [exec_transfer_store hi hs ha hl h, stored, advance_eq _ (by exact hn)]
    rfl

/-- Settles O43: a form that is not allowed has a restriction, and each restriction is one of the two refusals. -/
theorem transferRestrictionsRefused : Obligations.TransferRestrictionsRefused := by
  intro i t s hi hs ha
  obtain ⟨r, hr, hconflict | hpc⟩ := Transfer.restriction_of_not_allowed ha
  · exact .inl (hconflict ▸ exec_transfer_restricted hi hs hr)
  · exact .inr (hpc ▸ exec_transfer_restricted hi hs hr)

end Sys2Proof.Machine

/-!
PROOFS. Load and store multiple: the addresses of a block (R280); a block loaded into a bank, with or without writeback;
the four forms of LDM and the two of STM from them; the pop that undoes a push; and what LDM and STM refuse (R288).
-/

namespace Sys2Proof.Machine

/-! ## The addresses of a block (R280) -/

/-- The last of `k` words lies one word below the end of the block. -/
theorem blockBytes_pred {k : Nat} (h : 1 ≤ k) : blockBytes (k - 1) = blockBytes k - 4#32 := by
  obtain ⟨k, rfl⟩ := Nat.exists_eq_add_of_le' h
  rw [Nat.add_sub_cancel, blockBytes, blockBytes, Nat.mul_succ, BitVec.ofNat_add, BitVec.add_sub_cancel]

/-- Settles O59: the sums of the table mode by mode, and the addresses of the example. -/
theorem blockAddresses : Obligations.BlockAddresses := by
  refine ⟨?table, by decide⟩
  case table =>
    rintro am base start last final _ k hk - rfl hrow
    rw [show BitVec.ofNat 32 (4 * (k - 1)) = blockBytes k - 4#32 from blockBytes_pred hk]
    simp only [List.mem_cons, Prod.mk.injEq, List.not_mem_nil, or_false] at hrow
    rcases hrow with ⟨rfl, rfl, rfl, rfl⟩ | ⟨rfl, rfl, rfl, rfl⟩ | ⟨rfl, rfl, rfl, rfl⟩ | ⟨rfl, rfl, rfl, rfl⟩
    all_goals
      refine ⟨rfl, ?_, rfl⟩
      simp only [blockBytes]
      bv_omega

/-- A block is word-aligned exactly when its base is (R64). -/
theorem wordAligned_blockStart (am : BlockMode) (base : Word) (k : Nat) :
    wordAligned (blockStart am base k) = wordAligned base := by
  rw [Bool.eq_iff_iff, wordAligned_iff, wordAligned_iff]
  cases am
  case ia => rfl
  all_goals
    simp only [blockStart, blockBytes, BitVec.toNat_add, BitVec.toNat_sub, BitVec.toNat_ofNat]
    omega

/-! ## Register lists -/

theorem toNat_lt_fifteen_iff {r : Reg} : r.toNat < 15 ↔ r ≠ 15#4 := by bv_omega

/-- A list names no register only when no bit of it is 1. -/
theorem listCount_pos_iff {n : Nat} (hn : n ≤ 16) (list : BitVec n) : 0 < listCount list ↔ list ≠ 0#n := by
  refine ⟨?_, fun h => List.length_pos_iff.mpr fun hnil => h (BitVec.eq_of_getLsbD_eq fun k hk => ?_)⟩
  · rintro hpos rfl
    obtain ⟨r, hr⟩ := List.exists_mem_of_length_pos hpos
    simpa using (mem_listRegs hn 0#n r).mp hr
  · have hr := mem_listRegs hn list (BitVec.ofNat 4 k)
    rw [hnil, BitVec.toNat_ofNat, Nat.mod_eq_of_lt (by omega)] at hr
    simpa using hr

/-- A listed register's place in the list is its rank. -/
theorem getD_listRegs_listRank {n : Nat} (hn : n ≤ 16) (list : BitVec n) {r : Reg}
    (h : list.getLsbD r.toNat = true) : (listRegs list).getD (listRank list r) 0#4 = r := by
  obtain ⟨hlt, hr⟩ := listRegs_listRank hn list r h
  rw [List.getD_eq_getElem?_getD, List.getElem?_eq_getElem hlt, Option.getD_some, hr]

theorem listCount_withoutPc (list : BitVec 15) : listCount (0b0#1 ++ list) = listCount list :=
  congrArg List.length (listRegs_withoutPc list)

theorem withPc_ne_zero (list : BitVec 15) : 0b1#1 ++ list ≠ 0#16 := by
  rw [← listCount_pos_iff (by decide), listCount, listRegs_withPc, List.length_append]
  exact Nat.succ_pos _

theorem withoutPc_ne_zero {list : BitVec 15} (h : list ≠ 0#15) : 0b0#1 ++ list ≠ 0#16 := by
  rwa [← listCount_pos_iff (by decide), listCount_withoutPc, listCount_pos_iff (by decide)]

/-- Without R15 the rank of a register is that in the list of 15 bits. -/
theorem listRank_withoutPc (list : BitVec 15) (r : Reg) (h : r.toNat < 15) :
    listRank (0b0#1 ++ list) r = listRank list r := by
  unfold listRank
  rw [List.filter_congr fun k hk => ?_]
  have hlt : k < 15 := Nat.lt_trans (List.mem_range.mp hk) h
  rw [BitVec.getLsbD_append, if_pos hlt]

/-! ## Loads of a block, with writeback (R282) -/

theorem State.writeBack_eq (s : State) (w : Bool) {rn : Reg} (hrn : rn ≠ 15#4) (v : Word) :
    s.writeBack w rn v = s.withGpr (if w then s.gprWith rn v else s.gpr) := by
  cases w
  case false => rfl
  case true => exact s.setReg_eq rn v hrn

/-- Writing what a block gives for a list without R15 changes the general registers only. -/
theorem State.setBankRegs_loadedPairs (s u : State) (b : Bank) (list : BitVec 15) (a : Word) :
    u.setBankRegs b (loadedPairs s a (listRegs list)) =
      u.withGpr (u.setBankRegs b (loadedPairs s a (listRegs list))).gpr :=
  State.setBankRegs_eq_withGpr b _ (fun _ hp => ne_pc_of_mem_listRegs (mem_of_mem_loadedPairs hp)) u

/-- A load that came to its end has written its base back, if it does, and then the registers of its list. -/
theorem loadedRegs_blockLoaded (s : State) (am : BlockMode) (w : Bool) {rn : Reg} (hrn : rn ≠ 15#4) (count : Nat)
    (list : BitVec 15) (a : Word) :
    ∃ g, loadedRegs am w rn count (loadedPairs s a (listRegs list)) (s.withUserXfer false) =
        (s.withUserXfer false).withGpr g
      ∧ s.BlockLoaded s.bank list a (if w then s.gprWith rn (blockFinal am (s.reg rn) count) else s.gpr) g := by
  have written := State.writeBack_eq (s.withUserXfer false) w hrn (blockFinal am (s.reg rn) count)
  rw [loadedRegs, State.withUserXfer_reg, written, State.setBankRegs_loadedPairs]
  exact ⟨_, rfl, s.blockLoaded_setBankRegs _ _ list a⟩

/-- Settles O45: the loads of the block, then sequential execution. -/
theorem ldmResults : Obligations.LdmResults := by
  rintro c am w rn list s _ hr hrn - hw rfl h
  obtain ⟨hs, hn⟩ := (s.runs_iff_starts c _).mp hr
  obtain ⟨g, hg, hloaded⟩ := loadedRegs_blockLoaded s am w hrn (listCount list) list
    (blockStart am (s.reg rn) (listCount list))
  refine ⟨g, ?_, hloaded⟩
  calc exec (.ldm c am w rn list) s
      _ = advance (loadedRegs am w rn (listCount list) _ (s.withUserXfer false)) :=
        (execLdm_allowed hs hrn hw).trans (loadRegs_eq (by exact h) _)
      _ = advance ((s.withUserXfer false).withGpr g) := congrArg advance hg
      _ = .next { s.advanced with gpr := g } := advance_eq _ hn

/-! ## Loads of a block with R15 (R283, R285) -/

theorem State.canAccess_of_canAccessWords (s : State) {kind : AccessKind} {a : Word} {n j : Nat}
    (h : s.canAccessWords kind a n = true) (hj : j < n) :
    s.canAccess .word (a + blockBytes j) kind s.privileged = true :=
  List.all_eq_true.mp h j (List.mem_range.mpr hj)

/-- The loads of a list with R15 that can be made: the word above those of the other registers is what the instruction
then finishes with. -/
theorem loadRegs_pc_eq {s : State} {am : BlockMode} (w : Bool) {rn : Reg} {list : BitVec 15} {start : Word}
    (hrn : rn ≠ 15#4) (hstart : start = blockStart am (s.reg rn) (listCount list + 1))
    (h : s.canAccessWords .read start (listCount list + 1) = true) (finish : Word → State → Result) :
    ∃ g, (loadRegs am w rn (listRegs list) ((listRegs list).length + 1) s.bank (s.withUserXfer false) fun vals =>
          loadPcWord am w rn list vals (s.withUserXfer false) fun data =>
            finish data (loadedRegs am w rn ((listRegs list).length + 1) vals (s.withUserXfer false)))
        = finish (s.mem.load .word (start + blockBytes (listCount list))) ((s.withUserXfer false).withGpr g)
      ∧ s.BlockLoaded s.bank list start
        (if w then s.gprWith rn (blockFinal am (s.reg rn) (listCount list + 1)) else s.gpr) g := by
  subst hstart
  obtain ⟨g, hg, hloaded⟩ := loadedRegs_blockLoaded s am w hrn (listCount list + 1) list
    (blockStart am (s.reg rn) (listCount list + 1))
  refine ⟨g, ?_, hloaded⟩
  have hpc := s.canAccess_of_canAccessWords h (Nat.lt_succ_self _)
  rw [loadRegs_eq (by exact s.canAccessWords_mono .read _ _ _ (Nat.le_succ _) h), loadPcWord,
    memRead_eq _ .word _ _ (by exact hpc), ← hg]
  rfl

/-- Settles O46: the word for R15 decides an exchanging branch. -/
theorem ldmPcResults : Obligations.LdmPcResults := by
  rintro c am w rn list s start _ hs hrn hw hstart h rfl
  obtain ⟨g, hg, hloaded⟩ := loadRegs_pc_eq w hrn hstart h branchExchange
  have hexec := (execLdmPc_allowed hs hrn hw).trans hg
  exact ⟨fun hm => hexec.trans (branchExchange_misaligned _ hm),
    fun hm => ⟨g, hexec.trans (branchExchange_eq_append _ hm), hloaded⟩⟩

/-- Clearing bit 0 leaves an address that is a multiple of 4. -/
theorem clearBit0_of_wordAligned {v : Word} (h : wordAligned v = true) : clearBit0 v = v := by
  have h0 : v.getLsbD 0 = false := by
    simpa using congrArg (·.getLsbD 0) (beq_iff_eq.mp h)
  rw [clearBit0_eq_append]
  refine BitVec.eq_of_getLsbD_eq fun k hk => ?_
  rw [BitVec.getLsbD_append]
  rcases k with _ | k
  · simpa using h0
  · simp [show k < 31 by omega, Nat.add_comm 1 k]

/-- An exception return to an address that the restored state allows (R285, R352). -/
theorem returnTo_eq_append {s : State} {saved v : Word} (h : s.savedPsr = some saved)
    (hl : Psr.legalMode (Psr.mode saved) = true) (hv : Psr.t saved = true ∨ wordAligned v = true) :
    returnTo v s = .next ((s.withCpsr saved).withPc (v.extractLsb' 1 31 ++ 0b0#1)) := by
  cases ht : Psr.t saved
  case true => exact returnTo_thumb h hl ht
  case false =>
    have hv : wordAligned v = true := hv.resolve_left (by simp [ht])
    rw [returnTo_arm h hl ht ((wordAligned_iff v).mp hv), ← clearBit0_eq_append, clearBit0_of_wordAligned hv]

/-- Settles O47: the word for R15 is the target of an exception return. -/
theorem ldmReturnResults : Obligations.LdmReturnResults := by
  rintro c am w rn list s start _ saved hs hrn hw hstart h rfl hsaved
  have hb : s.bank ≠ .usr := by
    intro hb
    rw [hb] at hsaved
    cases hsaved
  obtain ⟨g, hg, hloaded⟩ := loadRegs_pc_eq w hrn hstart h returnTo
  have hexec := (execLdmPcRet_allowed hs hrn hw hb).trans hg
  have hsaved : ((s.withUserXfer false).withGpr g).savedPsr = some saved := hsaved
  refine ⟨fun hl => hexec.trans (returnTo_illegalMode hsaved hl), fun hl ht hm => ?misaligned,
    fun hl hm => ⟨g, ?returns, hloaded⟩⟩
  case misaligned =>
    refine hexec.trans (returnTo_misaligned hsaved hl ht ?_)
    rwa [Ne, ← wordAligned_iff, wordAligned, beq_iff_eq]
  case returns => exact hexec.trans (returnTo_eq_append hsaved hl (hm.imp_right beq_iff_eq.mpr))

/-! ## User-mode registers (R284) -/

/-- Settles O48: the loads of the block into the User bank, then sequential execution. -/
theorem ldmUserResults : Obligations.LdmUserResults := by
  rintro c am rn list s _ hr hrn - hb rfl h
  obtain ⟨hs, hn⟩ := (s.runs_iff_starts c _).mp hr
  have hexec := (execLdmUser_allowed hs hrn hb).trans (congrArg remembering (loadRegs_eq (by exact h) _))
  rw [State.setBankRegs_loadedPairs, advance_eq _ (by exact hn)] at hexec
  exact ⟨_, hexec, s.blockLoaded_setBankRegs (s.withUserXfer false) .usr list _⟩

/-! ## Stores of a block (R286, R287) -/

section Stores

variable {s : State} {am : BlockMode} {w : Bool} {rn : Reg} {list : BitVec 16} {b : Bank}
  (h : s.canAccessWords .write (blockStart am (s.reg rn) (listCount list)) (listCount list) = true)
include h

/-- The stores of a block that can be made. -/
theorem storeRegs_storedWords (k : State → Result) :
    storeRegs am w rn ((listRegs list).map (s.storedReg b)) (s.withUserXfer false) k =
      k ((s.withUserXfer false).storedWords (blockStart am (s.reg rn) (listCount list))
        ((listRegs list).map (s.storedReg b))) := by
  have hlen : ((listRegs list).map (s.storedReg b)).length = listCount list := List.length_map _
  rw [storeRegs_eq (by rw [hlen]; exact h), storeBlock_eq _ _ _ (by rw [hlen]; exact h), hlen]
  rfl

/-- A state whose memory is that of the stores holds the registers of the list, word by word. -/
theorem State.blockStored_storedRegs {t : State}
    (ht : t.mem = storeWords s.mem (blockStart am (s.reg rn) (listCount list)) ((listRegs list).map (s.storedReg b)))
    (hw : t.written =
      markWords s.written (blockStart am (s.reg rn) (listCount list)) ((listRegs list).map (s.storedReg b))) :
    s.BlockStored t (blockStart am (s.reg rn) (listCount list)) (listCount list) fun j =>
      s.storedReg b ((listRegs list).getD j 0#4) := by
  have hlen : ((listRegs list).map (s.storedReg b)).length = listCount list := List.length_map _
  have word : ∀ j, (hj : j < ((listRegs list).map (s.storedReg b)).length) →
      ((listRegs list).map (s.storedReg b))[j] = s.storedReg b ((listRegs list).getD j 0#4) := by
    intro j hj
    have hlt : j < (listRegs list).length := by rwa [List.length_map] at hj
    rw [List.getElem_map, List.getD_eq_getElem?_getD, List.getElem?_eq_getElem hlt, Option.getD_some]
  have stored := s.blockStored_of_storeWords t _ _ _ (hlen ▸ listCount_le list) (by rw [hlen]; exact h) ht hw word
  rwa [hlen] at stored

end Stores

/-- Settles O49: the stores of the block, then writeback or the memory of R403, then sequential execution. -/
theorem stmResults : Obligations.StmResults := by
  rintro c am w rn list s _ hr hrn - rfl h
  obtain ⟨hs, hn⟩ := (s.runs_iff_starts c _).mp hr
  refine ⟨fun hw => ?stm, fun hb => ?stmUser⟩
  case stm =>
    have hexec := (execStm_allowed hs hrn hw).trans (storeRegs_storedWords h _)
    rw [State.writeBack_eq _ w hrn, advance_eq _ (by exact hn)] at hexec
    exact ⟨_, hexec, rfl, s.blockStored_storedRegs h rfl rfl⟩
  case stmUser =>
    have hexec := (execStmUser_allowed hs hrn hb).trans (congrArg remembering (storeRegs_storedWords h _))
    rw [advance_eq _ (by exact hn)] at hexec
    exact ⟨_, hexec, rfl, s.blockStored_storedRegs h rfl rfl⟩

/-! ## Stacks (R281) -/

/-- The pop of a stack name reads the block that its push wrote, and writes back the base that the push read. -/
theorem blockStart_blockFinal_pop {st ld : BlockMode}
    (h : (st, ld) ∈ [(BlockMode.ia, BlockMode.db), (.ib, .da), (.da, .ib), (.db, .ia)]) (base : Word) (k : Nat) :
    blockStart ld (blockFinal st base k) k = blockStart st base k ∧
      blockFinal ld (blockFinal st base k) k = base := by
  simp only [List.mem_cons, Prod.mk.injEq, List.not_mem_nil, or_false] at h
  rcases h with ⟨rfl, rfl⟩ | ⟨rfl, rfl⟩ | ⟨rfl, rfl⟩ | ⟨rfl, rfl⟩
  all_goals
    simp only [blockStart, blockFinal]
    exact ⟨by bv_omega, by bv_omega⟩

/-- A register that a block of loads does not list keeps its value. -/
theorem State.BlockLoaded.getElem_of_not_listed {s : State} {b : Bank} {list : BitVec 15} {start : Word}
    {g g' : Vector Word 30} (h : s.BlockLoaded b list start g g') {rn : Reg} (hrn : rn ≠ 15#4)
    (hl : list.getLsbD rn.toNat = false) : g'[b.index rn] = g[b.index rn] := by
  refine h.2 _ fun r hr hlisted he => ?_
  rw [(b.index_inj r rn hr (toNat_lt_fifteen_iff.mpr hrn)).mp he, hl] at hlisted
  cases hlisted

/-- After a push the block holds each listed register at the word of its rank. -/
theorem State.BlockStored.load_listed {s t : State} {list : BitVec 16} {start : Word}
    (h : s.BlockStored t start (listCount list) fun j => s.storedReg s.bank ((listRegs list).getD j 0#4))
    {r : Reg} (hr : r ≠ 15#4) (hl : list.getLsbD r.toNat = true) :
    t.mem.load .word (start + blockBytes (listRank list r)) = s.reg r := by
  obtain ⟨hlt, -⟩ := listRegs_listRank (by decide) list r hl
  refine (h.1 _ hlt).trans ?_
  simp only [getD_listRegs_listRank (by decide) list hl, State.storedReg, if_neg hr]
  rfl

theorem State.getElem_gprWith_self (s : State) (r : Reg) (v : Word) : (s.gprWith r v)[s.bank.index r] = v :=
  Vector.getElem_set_self _

/-- STM with `!` of a list without R15 and without its base. -/
theorem exec_stm_writeBack {c : Cond} {am : BlockMode} {rn : Reg} {list : BitVec 15} {s : State}
    (hr : s.runs c (rn :: listRegs list) = true) (hrn : rn ≠ 15#4) (hne : list ≠ 0#15)
    (hbase : list.getLsbD rn.toNat = false)
    (h : s.canAccessWords .write (blockStart am (s.reg rn) (listCount list)) (listCount list) = true) :
    ∃ m l, exec (.stm c am true rn (0b0#1 ++ list)) s = .next
        { s.advanced with gpr := s.gprWith rn (blockFinal am (s.reg rn) (listCount list)), mem := m, written := l }
      ∧ ∀ r : Reg, r.toNat < 15 → list.getLsbD r.toNat = true →
        m.load .word (blockStart am (s.reg rn) (listCount list) + blockBytes (listRank list r)) = s.reg r := by
  have hunlisted : (0b0#1 ++ list).getLsbD rn.toNat = false := (inList_withoutPc list rn).trans hbase
  rw [← listRegs_withoutPc] at hr
  rw [← listCount_withoutPc] at h ⊢
  obtain ⟨hstm, -⟩ := stmResults c am true rn (0b0#1 ++ list) s _ hr hrn (withoutPc_ne_zero hne) rfl h
  obtain ⟨t, hexec, ht, hstored⟩ := hstm fun _ hl => absurd (hunlisted.symm.trans hl) Bool.false_ne_true
  refine ⟨t.mem, t.written, hexec.trans (congrArg _ ht), fun r hlt hl => ?_⟩
  rw [← listRank_withoutPc list r hlt]
  exact hstored.load_listed (toNat_lt_fifteen_iff.mp hlt) ((inList_withoutPc list r).trans hl)

/-- LDM with `!` of a block that holds the value `v r` for each listed register `r`. -/
theorem exec_ldm_writeBack {c : Cond} {am : BlockMode} {rn : Reg} {list : BitVec 15} {s : State} {v : Reg → Word}
    (hr : s.runs c (rn :: listRegs list) = true) (hrn : rn ≠ 15#4) (hne : list ≠ 0#15)
    (hbase : list.getLsbD rn.toNat = false)
    (h : s.canAccessWords .read (blockStart am (s.reg rn) (listCount list)) (listCount list) = true)
    (hblock : ∀ r : Reg, r.toNat < 15 → list.getLsbD r.toNat = true →
      s.mem.load .word (blockStart am (s.reg rn) (listCount list) + blockBytes (listRank list r)) = v r) :
    ∃ u, exec (.ldm c am true rn list) s = .next u ∧ u.reg rn = blockFinal am (s.reg rn) (listCount list)
      ∧ ∀ r : Reg, r.toNat < 15 → list.getLsbD r.toNat = true → u.reg r = v r := by
  obtain ⟨g, hexec, hloaded⟩ := ldmResults c am true rn list s _ hr hrn hne (fun _ => hbase) rfl h
  refine ⟨_, hexec, ?base, fun r hlt hl => ?listed⟩
  case base =>
    rw [State.reg_eq _ rn hrn]
    exact (hloaded.getElem_of_not_listed hrn hbase).trans (s.getElem_gprWith_self rn _)
  case listed =>
    rw [State.reg_eq _ r (toNat_lt_fifteen_iff.mp hlt)]
    exact (hloaded.1 r hlt hl).trans (hblock r hlt hl)

/-- Settles O50: the push stores the block, and the pop loads it from the same addresses. -/
theorem popUndoesPush : Obligations.PopUndoesPush := by
  intro st ld rn list s hpair hname hpc hrn hne hbase hwrite hread
  obtain ⟨hstart, hfinal⟩ := blockStart_blockFinal_pop hpair (s.reg rn) (listCount list)
  have hpush : s.runs .al (rn :: listRegs list) = true :=
    (State.runs_iff ..).mpr ⟨rfl, hname, decide_eq_true (by omega)⟩
  obtain ⟨m, l, hexec, hblock⟩ := exec_stm_writeBack hpush hrn hne hbase hwrite
  refine ⟨_, hexec, fun g hg => ?pop⟩
  case pop =>
    generalize hp : ({ s.advanced with gpr := g, mem := m, written := l } : State) = p
    have hpop : p.runs .al (rn :: listRegs list) = true := by
      subst hp
      refine (State.runs_iff ..).mpr ⟨rfl, rfl, decide_eq_true ?_⟩
      change (s.pc + 4#32).toNat + 4 < 2 ^ 32
      rw [BitVec.toNat_add, BitVec.toNat_ofNat]
      omega
    have hreg : p.reg rn = blockFinal st (s.reg rn) (listCount list) := by
      subst hp
      exact (State.reg_eq _ rn hrn).trans (hg.trans (s.getElem_gprWith_self rn _))
    have hpopped := exec_ldm_writeBack (am := ld) (v := s.reg) hpop hrn hne hbase
    rw [hreg, hstart, hfinal] at hpopped
    subst hp
    exact hpopped hread hblock

/-! ## What LDM and STM refuse (R288) -/

/-- A stored base with `!` that is listed but not first (R288 (d)). -/
theorem stmRestriction_baseInList {rn : Reg} {list : BitVec 16} (hrn : rn ≠ 15#4)
    (hl : list.getLsbD rn.toNat = true) (hrank : listRank list rn ≠ 0) :
    stmRestriction true rn list = some .baseInList := by
  have hfirst : (listRegs list).head? ≠ some rn := by
    intro h
    have hmem : rn ∈ (listRegs list).take 1 := by
      rw [List.take_one, h]
      exact List.mem_singleton_self rn
    exact hrank (Nat.lt_one_iff.mp ((mem_take_listRegs (by decide) list rn 1).mp hmem).2)
  rw [stmRestriction, if_neg hrn, if_pos (by simp [inList, hl, hfirst])]

theorem ldmRestriction_baseInList {n : Nat} {rn : Reg} {list : BitVec n} (hrn : rn ≠ 15#4)
    (hl : list.getLsbD rn.toNat = true) : ldmRestriction true rn list = some .baseInList := by
  rw [ldmRestriction, if_neg hrn, if_pos (by exact hl)]

section Restricted

variable {s : State} {c : Cond} {am : BlockMode} {w : Bool} {rn : Reg} {r : Refusal}

section Load

variable {list : BitVec 15} (hs : s.starts c (rn :: listRegs list) = true)
include hs

theorem exec_ldm_restricted (h : ldmRestriction w rn list = some r) : exec (.ldm c am w rn list) s = .refused r := by
  refine (conditional_starts hs _).trans ?_
  simp only [h]

theorem exec_ldmPc_restricted (h : ldmRestriction w rn list = some r) :
    exec (.ldmPc c am w rn list) s = .refused r := by
  refine (conditional_starts hs _).trans ?_
  simp only [h]

theorem exec_ldmPcRet_restricted (hb : s.bank ≠ .usr) (h : ldmRestriction w rn list = some r) :
    exec (.ldmPcRet c am w rn list) s = .refused r := by
  obtain ⟨saved, hsaved⟩ := (s.withUserXfer false).savedPsr_of_bank hb
  refine (conditional_starts hs _).trans ?_
  simp only [h, hsaved]

theorem exec_ldmUser_restricted (hb : s.bank ≠ .usr) (h : ldmRestriction false rn list = some r) :
    exec (.ldmUser c am rn list) s = .refused r := by
  refine (conditional_starts hs _).trans ((if_neg (by exact hb)).trans ?_)
  simp only [h]

/-- In USER and System mode there is no SPSR to return with. -/
theorem exec_ldmPcRet_noSpsr (hb : s.bank = .usr) : exec (.ldmPcRet c am w rn list) s = .refused .noSpsr := by
  have hsaved : (s.withUserXfer false).savedPsr = none := by
    rw [State.savedPsr, State.withUserXfer_bank, hb]
    rfl
  refine (conditional_starts hs _).trans ?_
  simp only [hsaved]

theorem exec_ldmUser_userTransferMode (hb : s.bank = .usr) :
    exec (.ldmUser c am rn list) s = .refused .userTransferMode :=
  (conditional_starts hs _).trans (if_pos hb)

end Load

section Store

variable {list : BitVec 16} (hs : s.starts c (rn :: listRegs list) = true)
include hs

theorem exec_stm_restricted (h : stmRestriction w rn list = some r) : exec (.stm c am w rn list) s = .refused r := by
  refine (conditional_starts hs _).trans ?_
  simp only [h]

theorem exec_stmUser_restricted (hb : s.bank ≠ .usr) (h : stmRestriction false rn list = some r) :
    exec (.stmUser c am rn list) s = .refused r := by
  refine (conditional_starts hs _).trans ((if_neg (by exact hb)).trans ?_)
  simp only [h]

theorem exec_stmUser_userTransferMode (hb : s.bank = .usr) :
    exec (.stmUser c am rn list) s = .refused .userTransferMode :=
  (conditional_starts hs _).trans (if_pos hb)

end Store

end Restricted

/-- An LDM or STM that is allowed, from a base that is not a multiple of 4: its first access is refused (R64). -/
theorem exec_blockTransfer_misaligned {i : Instr} {b : BlockTransfer} {s : State} (hi : i.blockTransfer = some b)
    (hs : s.starts b.c i.named = true) (ha : b.allowed s) (hlist : b.list ≠ 0#16)
    (hbase : (s.reg b.rn).extractLsb' 0 2 ≠ 0b00#2) : exec i s = .refused .misalignedAccess := by
  have hpos : 0 < listCount b.list := (listCount_pos_iff (by decide) b.list).mpr hlist
  have hal : Size.word.aligned (b.start s + blockBytes 0) = false := by
    rw [show b.start s + blockBytes 0 = b.start s from BitVec.add_zero _, Size.aligned, BlockTransfer.start,
      wordAligned_blockStart]
    exact beq_false_of_ne hbase
  cases hload : b.load
  case false => exact (exec_blockStore_fails hi hload hs ha hpos rfl).misaligned hal
  case true => exact (exec_blockLoad_fails hi hload hs ha hpos rfl).misaligned hal

theorem BlockTransfer.allowed_of_not_listed {b : BlockTransfer} {s : State} (hrn : b.rn ≠ 15#4)
    (hw : b.w = true → b.list.getLsbD b.rn.toNat = false) (hb : b.user = true ∨ b.ret = true → s.bank ≠ .usr) :
    b.allowed s :=
  ⟨hrn, fun hw' hl => absurd ((hw hw').symm.trans hl) Bool.false_ne_true, hb⟩

/-- Settles O51: the restrictions of R288 in the machine's order, and then the first access. -/
theorem blockRestrictionsRefused : Obligations.BlockRestrictionsRefused := by
  intro c am w rn list slist s hl hst
  refine ⟨fun hb => ?noSpsr, ?pcBase, ?loadedBase, ?storedBase, fun hrn hal =>
    ⟨fun hw => ?loads, fun hw hne => ?stores, fun hb => ?users⟩⟩
  case noSpsr =>
    exact ⟨exec_ldmPcRet_noSpsr hl hb, exec_ldmUser_userTransferMode hl hb, exec_stmUser_userTransferMode hst hb⟩
  case pcBase =>
    rintro rfl
    exact ⟨exec_ldm_restricted hl rfl, exec_ldmPc_restricted hl rfl, exec_stm_restricted hst rfl, fun hb =>
      ⟨exec_ldmPcRet_restricted hl hb rfl, exec_ldmUser_restricted hl hb rfl, exec_stmUser_restricted hst hb rfl⟩⟩
  case loadedBase =>
    rintro hrn rfl hlisted
    have h := ldmRestriction_baseInList hrn hlisted
    exact ⟨exec_ldm_restricted hl h, exec_ldmPc_restricted hl h, fun hb => exec_ldmPcRet_restricted hl hb h⟩
  case storedBase =>
    rintro hrn rfl hlisted hrank
    exact exec_stm_restricted hst (stmRestriction_baseInList hrn hlisted hrank)
  case loads =>
    have without (hw' : w = true) := (inList_withoutPc list rn).trans (hw hw')
    have withPc (hw' : w = true) := (inList_withPc list hrn).trans (hw hw')
    exact ⟨fun hne => exec_blockTransfer_misaligned (i := .ldm c am w rn list) rfl hl
        (BlockTransfer.allowed_of_not_listed hrn without nofun) (withoutPc_ne_zero hne) hal,
      exec_blockTransfer_misaligned (i := .ldmPc c am w rn list) rfl hl
        (BlockTransfer.allowed_of_not_listed hrn withPc nofun) (withPc_ne_zero list) hal,
      fun hb => exec_blockTransfer_misaligned (i := .ldmPcRet c am w rn list) rfl hl
        (BlockTransfer.allowed_of_not_listed hrn withPc fun _ => hb) (withPc_ne_zero list) hal⟩
  case stores =>
    exact exec_blockTransfer_misaligned (i := .stm c am w rn slist) rfl hst
      ⟨hrn, fun hw' hlisted => ⟨rfl, hw hw' hlisted⟩, nofun⟩ hne hal
  case users =>
    exact ⟨fun hne => exec_blockTransfer_misaligned (i := .ldmUser c am rn list) rfl hl ⟨hrn, nofun, fun _ => hb⟩
        (withoutPc_ne_zero hne) hal,
      fun hne => exec_blockTransfer_misaligned (i := .stmUser c am rn slist) rfl hst ⟨hrn, nofun, fun _ => hb⟩ hne hal⟩

end Sys2Proof.Machine

/-!
PROOFS. Swaps: SWP and SWPB whose two accesses can be made, as one swap of either size, and what the load and the store
of that swap are for a word and for a byte.
-/

namespace Sys2Proof.Machine

/-- A swap whose accesses can be made: Rd is the old value at Rn, loaded before memory becomes Rm (R301, R302). -/
theorem swap_eq {z : Size} {c : Cond} {rn rd rm : Reg} {s : State} (hr : s.runs c [rn, rd, rm] = true)
    (hp : 15#4 ∉ [rn, rd, rm]) (hk : rn ≠ rm ∧ rn ≠ rd)
    (hread : s.canAccess z (s.reg rn) .read s.privileged = true)
    (hwrite : s.canAccess z (s.reg rn) .write s.privileged = true) :
    swap z c rn rd rm s =
      .next { s.advanced.afterStore z (s.reg rn) (s.reg rm) with gpr := s.gprWith rd (s.mem.load z (s.reg rn)) } := by
  obtain ⟨hs, hn⟩ := (s.runs_iff_starts c _).mp hr
  have hrd : rd ≠ 15#4 := by
    rintro rfl
    simp at hp
  rw [swap_allowed hs hp hk, memRead_eq _ z _ _ (by exact hread), Access.andThen,
    memWrite_eq _ z _ _ _ (by exact hwrite), Access.andThen, State.setReg_eq _ _ _ hrd, advance_eq _ (by exact hn)]
  rfl

theorem Memory.load_byte (m : Memory) (a : Word) : m.load .byte a = (m.get a.toNat).setWidth 32 := by
  rw [Memory.load, byteAddr_zero]

theorem accessBytes_byte (a : Word) : accessBytes .byte a = [a.toNat] := by
  rw [accessBytes, byteAddr_zero]

theorem Size.aligned_of_canAccess {z : Size} {s : State} {a : Word} {kind : AccessKind} {p : Bool}
    (h : s.canAccess z a kind p = true) : z.aligned a = true := by
  simp only [State.canAccess, Bool.and_eq_true] at h
  obtain ⟨⟨aligned, _⟩, _⟩ := h
  exact aligned

/-- Settles O52: `swap_eq` for the two sizes; that memory holds Rm and is otherwise as before are laws of
`Memory.store`. -/
theorem swapResults : Obligations.SwapResults := by
  rintro c rn rd rm s a hr hrn hrd hrm hnm hnd rfl
  have hp : 15#4 ∉ [rn, rd, rm] := by simp [hrn.symm, hrd.symm, hrm.symm]
  refine ⟨fun hread hwrite => ⟨?wordNext, ?wordStored, ?wordFrame⟩,
    fun hread hwrite => ⟨?byteNext, ?byteStored, ?byteFrame⟩⟩
  case wordNext => exact swap_eq hr hp ⟨hnm, hnd⟩ hread hwrite
  case wordStored => exact s.mem.load_store_word _ _ (Size.aligned_of_canAccess hread)
  case wordFrame => exact s.mem.get_store_of_notMem .word _ _
  case byteNext =>
    rw [← Memory.load_byte]
    exact swap_eq hr hp ⟨hnm, hnd⟩ hread hwrite
  case byteStored => exact s.mem.get_store_byte _ _
  case byteFrame =>
    intro x hx
    exact s.mem.get_store_of_notMem .byte _ _ x (by simpa [accessBytes_byte] using hx)

end Sys2Proof.Machine

/-!
PROOFS. Exceptions: what the entry saves and changes, the usual return from each exception, the interrupts at an
instruction boundary, and the step after a user-register transfer.
-/

namespace Sys2Proof.Machine

/-! ## Exception entry (R340, R350) -/

theorem Exc.linkOffset_eq (e : Exc) : e.linkOffset = if e = .dataAbort then 8#32 else 4#32 := by cases e <;> rfl

/-- An exception entry keeps the upper 24 bits of the CPSR. -/
theorem Psr.upper_entered (p : Word) (f : Bool) (mode : BitVec 5) :
    (Psr.entered p f mode).extractLsb' 8 24 = p.extractLsb' 8 24 :=
  Psr.field_congr _ _ _ _ fun k hk => by
    rw [Psr.getLsbD_entered _ _ _ _ (by omega), if_neg (by omega), if_neg (by omega), if_neg (by omega),
      if_neg (by omega)]

@[simp] theorem takeException_bank (e : Exc) (s : State) : (takeException e s).bank = e.bank := by
  rw [State.bank, takeException_cpsr, Psr.mode_entered, Exc.ofMode_mode]

/-- Settles O11: registers, SPSRs, the CPSR field by field, and what the entry leaves alone. -/
theorem exceptionEntry : Obligations.ExceptionEntry := by
  refine ⟨fun e s => ⟨?link, ?saved, fun b hb => ?otherSpsrs, ?mode, takeException_bank e s, ?t, ?i, ?f, ?upper, ?pc,
    takeException_mem e s, takeException_written e s, takeException_memMap e s, takeException_aborts e s,
    takeException_coprocs e s, takeException_cpState e s, takeException_lines e s⟩, rfl⟩
  case link => rw [takeException_gpr, Exc.linkOffset_eq]
  case saved => rw [takeException_spsr, Spsrs.get_set_exc]
  case otherSpsrs => rw [takeException_spsr, Spsrs.get_set_of_ne _ _ hb]
  case mode => rw [takeException_cpsr, Psr.mode_entered]
  case t => rw [takeException_cpsr, Psr.t_entered]
  case i => rw [takeException_cpsr, Psr.i_entered]
  case f => rw [takeException_cpsr, Psr.f_entered, Bool.beq_eq_decide_eq]
  case upper => rw [takeException_cpsr, Psr.upper_entered]
  case pc => rw [takeException_pc, Exc.vectorBase_add]

/-! ## The return from an exception (R352) -/

@[simp] theorem takeException_savedPsr (e : Exc) (s : State) : (takeException e s).savedPsr = some s.cpsr := by
  rw [State.savedPsr, takeException_bank, takeException_spsr, Spsrs.get_set_exc]

/-- R14 of the mode entered is the return link. -/
@[simp] theorem takeException_reg_link (e : Exc) (s : State) :
    (takeException e s).reg 14#4 = s.pc + e.linkOffset := by
  simp [State.reg_eq (takeException e s) 14#4 (by decide)]

end Sys2Proof.Machine

namespace Sys2Proof

open Sys2Proof.Machine

theorem DpName.result_movs (rn rm : Reg) (s : State) :
    (DpName.logical .mov).result rn (.shift 0#5 .lsl rm) s = s.reg rm := rfl

/-- `SUB` of a small constant, as a word. -/
theorem DpName.result_sub_imm (rn : Reg) (imm : BitVec 8) (s : State) :
    (DpName.arithmetic .sub).result rn (.imm 0#4 imm) s = s.reg rn - imm.setWidth 32 := by
  have himm : rotatedImm 0#4 imm = imm.setWidth 32 := BitVec.eq_of_getLsbD_eq fun k hk => by
    rw [rotatedImm, getLsbD_rotateRight_mod _ _ _ hk, show (k + 2 * (0#4).toNat) % 32 = k from Nat.mod_eq_of_lt hk]
  rw [← himm]
  simp only [DpName.result, ArithmeticName.exact, operand2Eval, immOperand]
  rw [Int.sub_eq_add_neg, ofInt_toInt_add, BitVec.ofInt_neg, BitVec.ofInt_toInt, BitVec.sub_eq_add_neg]

/-- An exception return by data processing, from the first instruction of the handler to an aligned address of ARM
state: the CPSR is the one saved, and nothing else changes (R145). -/
theorem DpName.exec_return_of_takeException (k : DpName) (e : Exc) {rn : Reg} {o : Operand2} {s : State} {target : Word}
    (hm : Psr.legalMode (Psr.mode s.cpsr) = true) (ht : Psr.t s.cpsr = false) (ho : operand2IsRegShift o = false)
    (htarget : k.result rn o (takeException e s) = target) (ha : wordAligned target = true) :
    exec (k.instr .al true rn 15#4 o) (takeException e s) =
      .next { takeException e s with cpsr := s.cpsr, pc := target } := by
  have hs : (takeException e s).starts .al (k.named rn 15#4 o) = true := rfl
  have hsaved : ((takeException e s).withUserXfer false).savedPsr = some s.cpsr := takeException_savedPsr e s
  rw [DpName.exec_instr_return hs ho, htarget, returnTo_arm hsaved hm ht ((wordAligned_iff target).mp ha)]
  rfl

/-- Settles O12: each return instruction takes the offset of the link back off R14. -/
theorem returnUndoesEntry : Obligations.ReturnUndoesEntry := by
  intro e s hm ht ha
  have hmovs (h : e.linkOffset = 4#32) := (DpName.logical .mov).exec_return_of_takeException e (rn := 14#4)
    (o := .shift 0#5 .lsl 14#4) (target := s.pc + 4#32) hm ht rfl
    (by rw [DpName.result_movs, takeException_reg_link, h]) (wordAligned_add_four ha)
  have hsubs (imm : BitVec 8) (h : e.linkOffset = imm.setWidth 32) :=
    (DpName.arithmetic .sub).exec_return_of_takeException e (rn := 14#4) (o := .imm 0#4 imm) (target := s.pc) hm ht rfl
      (by rw [DpName.result_sub_imm, takeException_reg_link, h, BitVec.add_sub_cancel]) ha
  cases e with
  | undefined | swi => exact hmovs rfl
  | prefetchAbort | irq | fiq => exact hsubs 4#8 rfl
  | dataAbort => exact hsubs 8#8 rfl

end Sys2Proof

namespace Sys2Proof.Machine

/-! ## Interrupts at an instruction boundary (R347) -/

theorem step_of_interrupt {s : State} {e : Exc} (h : s.interrupt = some e) :
    step s = .next (takeException e s.sampled) := by
  simp only [step, stepWith, h, raise]

section Boundary

variable {s : State} {l : LineSample} {rest : List LineSample} (h : s.lines = l :: rest)
include h

theorem State.sampled_of_lines : s.sampled = { s with lines := rest } := by
  rw [State.sampled, h]
  rfl

theorem State.interrupt_of_lines :
    s.interrupt = if l.fiq && !Psr.f s.cpsr then some .fiq else if l.irq && !Psr.i s.cpsr then some .irq else none := by
  rw [State.interrupt, State.sample, h]
  rfl

end Boundary

/-- A request is not taken when its line is 0 or its mask is set. -/
theorem request_masked {line mask : Bool} (h : line = false ∨ mask = true) : (line && !mask) = false := by
  rcases h with rfl | rfl
  · rfl
  · exact Bool.and_false line

/-- Settles O5: the sample at the boundary decides which interrupt is taken, FIQ first. -/
theorem interruptsAtInstructionBoundary : Obligations.InterruptsAtInstructionBoundary := by
  intro s l rest h
  have hi := State.interrupt_of_lines h
  rw [← State.sampled_of_lines h]
  refine ⟨fun hfiq hf => step_of_interrupt ?fiq, fun hirq hi' hmask => step_of_interrupt ?irq, fun hfiq hirq => ?none⟩
  case fiq => rw [hi, hfiq, hf]; rfl
  case irq => rw [hi, request_masked hmask, hirq, hi']; rfl
  case none => rw [hi, request_masked hfiq, request_masked hirq]; rfl

/-! ## The frame of every instruction (R27 step 5, R403) -/

/-- The frame of an instruction that names the registers `named`: conditional, or always executed when it has no
condition. -/
def guarded (c : Option Cond) (named : List Reg) (s : State) (body : State → Result) : Result :=
  match c with
  | some c => conditional c named s body
  | none => always named s body

/-- A coprocessor instruction is in the frame of its condition: the coprocessor takes it, or nobody does (R310, R311). -/
theorem cpInstr_eq_guarded (c : Option Cond) (named : List Reg) (p : BitVec 4) (bits : Word) (s : State)
    (body : State → Result) :
    cpInstr c named p bits s body =
      guarded c named s fun s => if s.cpTakes p bits then body s else raise .undefined s := by
  cases c <;> rfl

/-- Every coprocessor load and store is the one frame (R318, R320, R322). -/
theorem exec_cpTransfer {i : Instr} {t : CpTransfer} (h : i.cpTransfer = some t) (s : State) :
    exec i s = cpTransfer t.load i.condition t.ix t.u t.rn t.off t.cp (encode i) s := by
  cases i with
  | ldc2Off | ldc2Post | ldc2Unidx | stc2Off | stc2Post | stc2Unidx | ldcOff | ldcPost | ldcUnidx | stcOff | stcPost
  | stcUnidx => cases h; rfl
  | _ => cases h

/-- Every coprocessor instruction is offered to its coprocessor in the one frame (R310). -/
theorem exec_coprocessor {i : Instr} {p : BitVec 4} (h : i.coprocessor = some p) :
    ∃ body, ∀ s, exec i s = cpInstr i.condition i.named p (encode i) s body := by
  cases i with
  | ldc2Off | ldc2Post | ldc2Unidx | stc2Off | stc2Post | stc2Unidx | ldcOff | ldcPost | ldcUnidx | stcOff | stcPost
  | stcUnidx => cases h; exact ⟨_, fun s => (exec_cpTransfer rfl s).trans rfl⟩
  | cdp2 => cases h; exact ⟨_, fun s => show cpData none _ _ s = _ from rfl⟩
  | mrc2 => cases h; exact ⟨_, fun s => show cpToArm none _ _ _ s = _ from rfl⟩
  | mcr2 => cases h; exact ⟨_, fun s => show cpFromArm none _ _ _ s = _ from rfl⟩
  | cdp | mrc | mcr => cases h; exact ⟨_, fun _ => rfl⟩
  | _ => cases h

/-- Every instruction is in the frame of its condition and of the registers that it names, in some order. -/
theorem exec_guarded (i : Instr) :
    ∃ named body, named.Perm i.named ∧ ∀ s, exec i s = guarded i.condition named s body := by
  cases hp : i.coprocessor with
  | some p =>
    obtain ⟨body, hexec⟩ := exec_coprocessor hp
    exact ⟨_, _, .refl _, fun s => (hexec s).trans (cpInstr_eq_guarded ..)⟩
  | none =>
    cases i with
    | andImm | andShift | andReg | eorImm | eorShift | eorReg | subImm | subShift | subReg | rsbImm | rsbShift | rsbReg
    | addImm | addShift | addReg | adcImm | adcShift | adcReg | sbcImm | sbcShift | sbcReg | rscImm | rscShift | rscReg
    | orrImm | orrShift | orrReg | bicImm | bicShift | bicReg =>
      exact ⟨_, _, .swap .., fun _ => rfl⟩
    | qadd _ rn rd rm | qsub _ rn rd rm | qdadd _ rn rd rm | qdsub _ rn rd rm =>
      exact ⟨_, _, List.perm_append_comm (l₁ := [rd, rm]) (l₂ := [rn]), fun _ => rfl⟩
    | ldc2Off | ldc2Post | ldc2Unidx | stc2Off | stc2Post | stc2Unidx | cdp2 | mrc2 | mcr2 => cases hp
    | _ => exact ⟨_, _, .refl _, fun _ => rfl⟩

/-- An instruction that is executed names no banked register right after a user-register transfer (R403). -/
theorem guarded_hazard {c : Option Cond} {named : List Reg} {s : State}
    (hc : ∀ c', c = some c' → condHolds c' s.cpsr = true) (hx : s.userXfer = true)
    (hn : named.any (fun r => s.bank.isBanked r) = true) (body : State → Result) :
    guarded c named s body = .refused .bankedAfterUserTransfer := by
  have hrefused : always named s body = .refused .bankedAfterUserTransfer := by rw [always, hx, hn]; rfl
  cases c with
  | none => exact hrefused
  | some c => exact (if_pos (hc c rfl)).trans hrefused

/-- An instruction whose condition fails, or that names no banked register, does not see whether the previous one was a
user-register transfer. -/
theorem guarded_withUserXfer {c : Option Cond} {named : List Reg} {s : State}
    (h : (∃ c', c = some c' ∧ condHolds c' s.cpsr = false) ∨ named.any (fun r => s.bank.isBanked r) = false)
    (body : State → Result) : guarded c named s body = guarded c named (s.withUserXfer false) body := by
  have hskip {c' : Cond} (hc : condHolds c' s.cpsr = false) :
      conditional c' named s body = conditional c' named (s.withUserXfer false) body := by
    rw [conditional, conditional, State.withUserXfer_cpsr, hc]
    rfl
  have hrun (hn : named.any (fun r => s.bank.isBanked r) = false) :
      always named s body = always named (s.withUserXfer false) body := by
    rw [always, always, State.withUserXfer_bank, hn, Bool.and_false, Bool.and_false]
    rfl
  rcases h with ⟨c', rfl, hc⟩ | hn
  · exact hskip hc
  · cases c with
    | none => exact hrun hn
    | some c =>
      cases hc : condHolds c s.cpsr
      case false => exact hskip hc
      case true => exact (if_pos hc).trans ((hrun hn).trans (if_pos hc).symm)

/-- Settles O56: the frame of the instruction refuses it, or runs it as if there had been no transfer. -/
theorem bankedRegisterHazard : Obligations.BankedRegisterHazard := by
  intro i s hx
  obtain ⟨named, body, hperm, hexec⟩ := exec_guarded i
  rw [← hperm.any_eq, hexec s, hexec]
  exact ⟨fun hc hn => guarded_hazard hc hx hn body, fun h => guarded_withUserXfer h body⟩

/-! ## Instructions that start (R27 step 5, R403) -/

/-- Whether an instruction that names these registers performs its rule: its condition passes, if it has one, and it may
name them. -/
structure State.StartsIf (s : State) (c : Option Cond) (named : List Reg) : Prop where
  passed : ∀ c', c = some c' → condHolds c' s.cpsr = true
  mayName : s.mayName named = true

theorem State.StartsIf.some {s : State} {c : Cond} {named : List Reg} (h : s.starts c named = true) :
    s.StartsIf (some c) named :=
  have ⟨passed, mayName⟩ := (s.starts_iff c named).mp h
  ⟨fun _ hc => Option.some.inj hc ▸ passed, mayName⟩

theorem State.StartsIf.none {s : State} {named : List Reg} (h : s.mayName named = true) : s.StartsIf none named :=
  ⟨nofun, h⟩

theorem guarded_eq {c : Option Cond} {named : List Reg} {s : State} (hs : s.StartsIf c named)
    (body : State → Result) : guarded c named s body = body (s.withUserXfer false) := by
  cases c with
  | none => exact always_eq named s body hs.mayName
  | some c => exact conditional_eq c named s body (hs.passed c rfl) hs.mayName

/-! ## Instructions that take an exception -/

theorem raise_withUserXfer (e : Exc) (s : State) (b : Bool) : raise e (s.withUserXfer b) = .next (takeException e s) :=
  congrArg Host.Outcome.next (takeException_withUserXfer e s b)

/-- A coprocessor instruction that starts is its body where the coprocessor takes it, and the exception where none
does. -/
theorem cpInstr_eq {c : Option Cond} {named : List Reg} {p : BitVec 4} {bits : Word} {s : State}
    (hs : s.StartsIf c named) (body : State → Result) :
    cpInstr c named p bits s body =
      if s.cpTakes p bits then body (s.withUserXfer false) else .next (takeException .undefined s) := by
  rw [cpInstr_eq_guarded, guarded_eq hs, raise_withUserXfer]
  rfl

/-- A coprocessor instruction of which the coprocessor's part is known to go on. -/
theorem cpInstr_eq_next {c : Option Cond} {named : List Reg} {p : BitVec 4} {bits : Word} {s t : State}
    {body : State → Result} (hs : s.StartsIf c named) (h : body (s.withUserXfer false) = .next t) :
    cpInstr c named p bits s body = .next (if s.cpTakes p bits then t else takeException .undefined s) := by
  rw [cpInstr_eq hs, h, apply_ite Host.Outcome.next]

theorem State.cpTakes_of_absent {s : State} {p : Fin 16} (h : s.coprocs[p] = false) (bits : Word) :
    s.cpTakes (BitVec.ofFin p) bits = false := by
  rw [State.cpTakes, Bool.and_eq_false_iff]
  exact .inl h

/-- Settles O55: the body of each of the four is the exception, and so is the frame of a coprocessor instruction that
nobody takes. -/
theorem instructionsThatTakeExceptions : Obligations.InstructionsThatTakeExceptions := by
  have raised {c : Option Cond} {s : State} (e : Exc) (hc : ∀ c', c = some c' → condHolds c' s.cpsr = true) :
      guarded c [] s (raise e) = .next (takeException e s) :=
    (guarded_eq ⟨hc, s.mayName_nil⟩ _).trans (raise_withUserXfer e s false)
  refine ⟨fun c s hc => ?conditional, fun imm s => ?bkpt, fun i p s hi hc hn ht => ?untaken,
    fun p bits s h => State.cpTakes_of_absent h bits⟩
  case conditional =>
    have hc : ∀ c', some c = some c' → condHolds c' s.cpsr = true := by
      rintro _ ⟨⟩
      exact hc
    exact ⟨fun _ => raised .swi hc, fun _ _ => raised .undefined hc, fun _ _ => raised .undefined hc⟩
  case bkpt => exact raised (c := none) .prefetchAbort nofun
  case untaken =>
    obtain ⟨body, hexec⟩ := exec_coprocessor hi
    rw [hexec, cpInstr_eq ⟨hc, hn⟩, ht]
    rfl

/-! ## CDP, MRC and MCR (R312 to R317) -/

section Operations

variable {c : Option Cond} {rd : Reg} {p : BitVec 4} {bits : Word} {s : State}

theorem cpData_eq (hs : s.StartsIf c []) (hn : s.hasNext = true) :
    cpData c p bits s = .next (if s.cpTakes p bits then
        { s.advanced with cpState := s.cpState.set p.toNat (Config.cpCdp p bits (s.cp p)) p.isLt }
      else takeException .undefined s) :=
  cpInstr_eq_next hs (advance_eq _ hn)

/-- MRC to R15 replaces the four flags (R314). -/
theorem Psr.setTopFour_eq (p value : Word) :
    Psr.setTopFour p value = value.extractLsb' 28 4 ++ p.extractLsb' 0 28 := by
  refine BitVec.eq_of_getLsbD_eq fun k hk => ?_
  rw [Psr.setTopFour, Psr.getLsbD_withNZCV _ _ _ _ _ _ hk, BitVec.getLsbD_append]
  simp only [BitVec.getLsbD_extractLsb']
  grind

theorem cpToArm_eq (hs : s.StartsIf c [rd]) (hn : s.hasNext = true) :
    cpToArm c rd p bits s = .next (if s.cpTakes p bits then
        { s.advanced with
          gpr := if rd = 15#4 then s.gpr else s.gprWith rd (Config.cpMrc p bits (s.cp p)).1
          cpsr := if rd = 15#4 then (Config.cpMrc p bits (s.cp p)).1.extractLsb' 28 4 ++ s.cpsr.extractLsb' 0 28
            else s.cpsr
          cpState := s.cpState.set p.toNat (Config.cpMrc p bits (s.cp p)).2 p.isLt }
      else takeException .undefined s) := by
  refine cpInstr_eq_next hs ?_
  split
  case isTrue hrd =>
    rw [← Psr.setTopFour_eq]
    exact advance_eq _ hn
  case isFalse hrd =>
    rw [State.setReg_eq _ _ _ hrd]
    exact advance_eq _ hn

theorem cpFromArm_eq (hs : s.StartsIf c [rd]) (hn : s.hasNext = true) (hrd : rd ≠ 15#4) :
    cpFromArm c rd p bits s = .next (if s.cpTakes p bits then
        { s.advanced with cpState := s.cpState.set p.toNat (Config.cpMcr p bits (s.reg rd) (s.cp p)) p.isLt }
      else takeException .undefined s) :=
  cpInstr_eq_next hs ((if_neg hrd).trans (advance_eq _ hn))

/-- MCR of R15 is refused where the coprocessor takes it (R316). -/
theorem cpFromArm_pc (hs : s.StartsIf c [15#4]) :
    cpFromArm c 15#4 p bits s =
      if s.cpTakes p bits then .refused .pcOperand else .next (takeException .undefined s) :=
  cpInstr_eq hs _

end Operations

/-- Settles O53: the frames of the three operations, conditional and in the unconditional space. -/
theorem coprocessorOperationResults : Obligations.CoprocessorOperationResults := by
  intro c op op1 op2 crn crd crm cp rd s i hn
  refine ⟨?cdp, ?mrc, ?mcr⟩
  case cdp =>
    rintro (⟨rfl, hs⟩ | ⟨rfl, hs⟩)
    · exact cpData_eq (.some hs) hn
    · exact cpData_eq (.none hs) hn
  case mrc =>
    rintro (⟨rfl, hs⟩ | ⟨rfl, hs⟩)
    · exact cpToArm_eq (.some hs) hn
    · exact cpToArm_eq (.none hs) hn
  case mcr =>
    intro hi
    obtain ⟨c', hs, hexec⟩ : ∃ c', s.StartsIf c' [rd] ∧ exec i s = cpFromArm c' rd cp (encode i) s := by
      rcases hi with ⟨rfl, hs⟩ | ⟨rfl, hs⟩
      · exact ⟨_, .some hs, rfl⟩
      · exact ⟨_, .none hs, rfl⟩
    rw [hexec]
    refine ⟨fun h => ?effect, fun htakes hrd => ?refused⟩
    case effect =>
      by_cases hrd : rd = 15#4
      · subst hrd
        rw [cpFromArm_pc hs, h.resolve_right (not_not_intro rfl)]
        rfl
      · exact cpFromArm_eq hs hn hrd
    case refused =>
      subst hrd
      rw [cpFromArm_pc hs, htakes]
      rfl

end Sys2Proof.Machine

/-!
PROOFS. Coprocessor transfers: the words of an LDC and of an STC, all of them or up to one whose access cannot be made;
the base register of addressing mode 5; and what an LDC or STC answers from them.
-/

namespace Sys2Proof.Machine

/-! ## The words of a transfer (R318, R320) -/

/-- Words from address `a` upward as LDC and STC move them: what is done when they ended in a state, and when an access
aborted there. -/
def endWords (words : State × Access Unit) (onAbort k : State → Result) : Result :=
  words.2.andThen (onAbort words.1) fun _ => k words.1

/-- The kind of the accesses of an LDC or STC. -/
def cpKind (load : Bool) : AccessKind := if load then .read else .write

/-- The number of words that the coprocessor asks for (R310). -/
def State.cpCount (s : State) (load : Bool) (p : BitVec 4) (bits : Word) : Nat :=
  if load then (Config.cpLdcCount p bits (s.cp p)).val + 1 else (Config.cpStcCount p bits (s.cp p)).val + 1

/-- The first `j` words that the coprocessor supplies to an STC (R320). -/
def State.supplied (s : State) (p : BitVec 4) (bits : Word) (j : Nat) : List Word :=
  (List.range j).map fun m => Config.cpStcWord p bits m (s.cp p)

/-- The state after the first `j` words from `a` upward (R80; log 20). -/
def State.cpMoved (s : State) (load : Bool) (p : BitVec 4) (bits a : Word) (j : Nat) : State :=
  if load then s.setCp p (s.ldcState p bits a j)
  else (s.setCp p (Config.cpStcState p bits (s.cp p))).storedWords a (s.supplied p bits j)

@[simp] theorem State.cpMoved_cpsr (s : State) (load : Bool) (p : BitVec 4) (bits a : Word) (j : Nat) :
    (s.cpMoved load p bits a j).cpsr = s.cpsr := by cases load <;> rfl

@[simp] theorem State.cpMoved_gpr (s : State) (load : Bool) (p : BitVec 4) (bits a : Word) (j : Nat) :
    (s.cpMoved load p bits a j).gpr = s.gpr := by cases load <;> rfl

@[simp] theorem State.cpMoved_pc (s : State) (load : Bool) (p : BitVec 4) (bits a : Word) (j : Nat) :
    (s.cpMoved load p bits a j).pc = s.pc := by cases load <;> rfl

theorem State.cpMoved_withUserXfer (s : State) (b load : Bool) (p : BitVec 4) (bits a : Word) (j : Nat) :
    (s.withUserXfer b).cpMoved load p bits a j = (s.cpMoved load p bits a j).withUserXfer b := by
  cases load <;> rfl

section Words

variable {s : State} {load : Bool} {p : BitVec 4} {bits a : Word} {onAbort k : State → Result}

theorem ldcWords_fails {j n : Nat} :
    AccessFails s .word a .read s.privileged (onAbort s) (endWords (ldcWords p bits s j a (n + 1)) onAbort k) :=
  .of_outcome (s.mem.load .word a) (fun e he => by simp only [ldcWords, memRead, he, endWords, Access.andThen])
    (fun f hf => by simp only [ldcWords, memRead, hf, endWords, Access.andThen])
    (fun ha => by simp only [ldcWords, memRead, ha, endWords, Access.andThen])

theorem storeBlock_fails {v : Word} {rest : List Word} :
    AccessFails s .word a .write s.privileged (onAbort s) (endWords (storeBlock s a (v :: rest)) onAbort k) :=
  .of_outcome (s.stored .word a v) (fun e he => by simp only [storeBlock, memWrite, he, endWords, Access.andThen])
    (fun f hf => by simp only [storeBlock, memWrite, hf, endWords, Access.andThen])
    (fun ha => by simp only [storeBlock, memWrite, ha, endWords, Access.andThen])

/-- An LDC that receives its first `j` words goes on with the others. -/
theorem ldcWords_received {j : Nat} (n : Nat) (h : s.canAccessWords .read a j = true) :
    ldcWords p bits s 0 a (j + n) = ldcWords p bits (s.cpMoved true p bits a j) j (a + blockBytes j) n := by
  have split := ldcWords_split p bits s 0 a j n h
  simp only [Nat.zero_add] at split
  exact split

theorem State.length_supplied (s : State) (p : BitVec 4) (bits : Word) (j : Nat) : (s.supplied p bits j).length = j := by
  rw [State.supplied, List.length_map, List.length_range]

/-- An STC that stores its first `j` words goes on with the others. -/
theorem stcWords_stored {j n : Nat} (h : s.canAccessWords .write a j = true)
    (hn : (Config.cpStcCount p bits (s.cp p)).val + 1 = j + n) :
    stcWords p bits a s =
      storeBlock (s.cpMoved false p bits a j) (a + blockBytes j)
        ((List.range n).map fun m => Config.cpStcWord p bits (j + m) (s.cp p)) := by
  rw [stcWords, hn, List.range_add, List.map_append, List.map_map]
  have split := storeBlock_split (s.setCp p (Config.cpStcState p bits (s.cp p))) a (s.supplied p bits j)
    ((List.range n).map fun m => Config.cpStcWord p bits (j + m) (s.cp p)) (by rw [s.length_supplied]; exact h)
  rwa [s.length_supplied] at split

/-- The words of a transfer, all of them accessible. -/
theorem cpWords_eq (h : s.canAccessWords (cpKind load) a (s.cpCount load p bits) = true) :
    cpWords load p bits a s = (s.cpMoved load p bits a (s.cpCount load p bits), .ok ()) := by
  cases load with
  | true => exact ldcWords_received 0 h
  | false => exact stcWords_stored (n := 0) h rfl

/-- A transfer fails as its access number `j` does, the words before it moved (R80). -/
theorem cpWords_fails {j : Nat} (hj : j < s.cpCount load p bits) (h : s.canAccessWords (cpKind load) a j = true) :
    AccessFails s .word (a + blockBytes j) (cpKind load) s.privileged (onAbort (s.cpMoved load p bits a j))
      (endWords (cpWords load p bits a s) onAbort k) := by
  obtain ⟨n, hn⟩ := Nat.exists_eq_add_of_lt hj
  cases load with
  | true =>
    rw [show cpWords true p bits a s = ldcWords p bits s 0 a (j + (n + 1)) from congrArg (ldcWords p bits s 0 a) hn,
      ldcWords_received (n + 1) h]
    exact (ldcWords_fails (s := s.cpMoved true p bits a j)).of_platform rfl rfl
  | false =>
    rw [show cpWords false p bits a s = _ from stcWords_stored (n := n + 1) h hn, List.range_succ_eq_map, List.map_cons]
    exact (storeBlock_fails (s := s.cpMoved false p bits a j)).of_platform rfl rfl

/-- What an STC leaves in memory when it has stored its first `j` words (R320). -/
theorem State.blockStored_cpMoved {j : Nat} {t : State} (hj : j ≤ s.cpCount false p bits)
    (h : s.canAccessWords .write a j = true) (hm : t.mem = (s.cpMoved false p bits a j).mem)
    (hw : t.written = (s.cpMoved false p bits a j).written) :
    s.BlockStored t a j fun m => Config.cpStcWord p bits m (s.cp p) := by
  have hlen := s.length_supplied p bits j
  have hle : j ≤ 16 := Nat.le_trans hj (Config.cpStcCount p bits (s.cp p)).isLt
  have word : ∀ m, (hm : m < (s.supplied p bits j).length) →
      (s.supplied p bits j)[m] = Config.cpStcWord p bits m (s.cp p) := by
    intro m hm
    simp only [State.supplied, List.getElem_map, List.getElem_range]
  have stored := s.blockStored_of_storeWords t a (s.supplied p bits j) _ (by rw [hlen]; exact hle)
    (by rw [hlen]; exact h) hm hw word
  rwa [hlen] at stored

end Words

/-! ## The base of addressing mode 5 (R322) -/

section Base

variable {s v : State} {ix : IndexMode} {rn : Reg} (hcpsr : v.cpsr = s.cpsr) (hgpr : v.gpr = s.gpr)
include hcpsr hgpr

theorem State.gprWith_of_eq : v.gprWith = s.gprWith := by
  have bank : v.bank = s.bank := by rw [State.bank, hcpsr, State.bank]
  funext r w
  simp only [State.gprWith, hgpr, bank]

variable (u : Bool) (off : Word) (hrn : ix ≠ .offset → rn ≠ 15#4)
include hrn

/-- The writeback, whatever the words did to memory and to the coprocessor. -/
theorem State.writeBack_cpBase :
    v.writeBack (writesBack ix) rn (indexed u (s.reg rn) off) = v.withGpr (s.cpBase ix u rn off) := by
  have written (hix : ix ≠ .offset) (w : Word) : v.setReg rn w = v.withGpr (s.gprWith rn w) := by
    rw [v.setReg_eq _ _ (hrn hix), State.gprWith_of_eq hcpsr hgpr]
  cases ix
  case offset => rw [State.cpBase, if_pos rfl, ← hgpr]; rfl
  all_goals exact written nofun _

/-- An abort leaves the base as `ABORT_BASE` says (R80; log 8); a base of R15 is never written back. -/
theorem dataAbort_cpBase :
    dataAbort rn (writesBack ix) (s.reg rn) (indexed u (s.reg rn) off) v =
      .next (takeException .dataAbort
        (v.withGpr (if Config.abortBaseUpdated then s.cpBase ix u rn off else s.gpr))) := by
  by_cases hpc : rn = 15#4
  · have offset : ix = .offset := Decidable.byContradiction fun hix => hrn hix hpc
    rw [dataAbort, if_pos hpc, State.cpBase, if_pos offset, ite_self, ← hgpr]
    rfl
  · rw [dataAbort_eq hpc, State.gprWith_of_eq hcpsr hgpr, State.cpBase]
    cases ix <;> cases Config.abortBaseUpdated <;> simp [writesBack, s.gprWith_reg hpc, indexed]

end Base

/-! ## What a transfer answers -/

section Transfer

variable {i : Instr} {t : CpTransfer} {s : State} (hi : i.cpTransfer = some t) (hs : s.StartsIf i.condition [t.rn])
include hi hs

/-- A form that writes R15 back is refused where the coprocessor takes it (R322). -/
theorem exec_cpTransfer_pc (hix : t.ix ≠ .offset) (hrn : t.rn = 15#4) :
    exec i s = if s.cpTakes t.cp (encode i) then .refused .writebackConflict
      else .next (takeException .undefined s) := by
  have hwb : (writesBack t.ix && t.rn == 15#4) = true := by simp [writesBack_eq, hix, hrn]
  rw [exec_cpTransfer hi, cpTransfer, cpInstr_eq hs, if_pos hwb]

variable (hrn : t.ix ≠ .offset → t.rn ≠ 15#4)
include hrn

/-- An LDC or STC of which the coprocessor takes the words: an abort, or its base and sequential execution. -/
theorem exec_cpTransfer_eq :
    exec i s =
      if s.cpTakes t.cp (encode i) then
        endWords (cpWords t.load t.cp (encode i) (s.cpStart t.ix t.u t.rn t.off) (s.withUserXfer false))
          (dataAbort t.rn (writesBack t.ix) (s.reg t.rn) (indexed t.u (s.reg t.rn) t.off))
          fun v => advance (v.writeBack (writesBack t.ix) t.rn (indexed t.u (s.reg t.rn) t.off))
      else .next (takeException .undefined s) := by
  have hwb : ¬ (writesBack t.ix && t.rn == 15#4) = true := by simpa [writesBack_eq] using hrn
  have start : transferAddress t.ix (s.reg t.rn) (indexed t.u (s.reg t.rn) t.off) = s.cpStart t.ix t.u t.rn t.off := by
    cases t.ix <;> rfl
  rw [exec_cpTransfer hi, cpTransfer, cpInstr_eq hs, if_neg hwb, State.withUserXfer_reg, start]
  generalize cpWords .. = words
  obtain ⟨v, ended⟩ := words
  cases ended <;> rfl

/-- An LDC or STC whose words are accessible. -/
theorem exec_cpTransfer_next (hn : s.hasNext = true)
    (h : s.canAccessWords (cpKind t.load) (s.cpStart t.ix t.u t.rn t.off) (s.cpCount t.load t.cp (encode i)) = true) :
    exec i s = .next (if s.cpTakes t.cp (encode i) then
        (s.cpMoved t.load t.cp (encode i) (s.cpStart t.ix t.u t.rn t.off)
          (s.cpCount t.load t.cp (encode i))).advanced.withGpr (s.cpBase t.ix t.u t.rn t.off)
      else takeException .undefined s) := by
  rw [exec_cpTransfer_eq hi hs hrn, cpWords_eq (s := s.withUserXfer false) h, apply_ite Host.Outcome.next]
  congr 1
  change advance (State.writeBack _ _ _ _) = _
  rw [State.cpMoved_withUserXfer, State.writeBack_cpBase (s := s) (by simp) (by simp) t.u t.off hrn]
  exact advance_eq _ (by simpa [State.hasNext] using hn)

/-- An LDC or STC fails as its access number `j` does, the words before it moved and the base as `ABORT_BASE` says. -/
theorem exec_cpTransfer_fails {j : Nat} (hj : j < s.cpCount t.load t.cp (encode i))
    (h : s.canAccessWords (cpKind t.load) (s.cpStart t.ix t.u t.rn t.off) j = true) :
    ∃ r, exec i s = (if s.cpTakes t.cp (encode i) then r else .next (takeException .undefined s))
      ∧ AccessFails s .word (s.cpStart t.ix t.u t.rn t.off + blockBytes j) (cpKind t.load) s.privileged
        (.next (takeException .dataAbort
          ((s.cpMoved t.load t.cp (encode i) (s.cpStart t.ix t.u t.rn t.off) j).withGpr
            (if Config.abortBaseUpdated then s.cpBase t.ix t.u t.rn t.off else s.gpr)))) r := by
  refine ⟨_, exec_cpTransfer_eq hi hs hrn, ?_⟩
  have abort := dataAbort_cpBase (s := s) (v := s.cpMoved t.load t.cp (encode i) (s.cpStart t.ix t.u t.rn t.off) j)
    (by simp) (by simp) t.u t.off hrn
  rw [← dataAbort_withUserXfer _ _ _ _ _ false, ← State.cpMoved_withUserXfer] at abort
  rw [← abort]
  exact (cpWords_fails (s := s.withUserXfer false) hj h).of_platform rfl rfl

end Transfer

/-- Settles O54: the refused writeback of R15, the words that can all be moved (`exec_cpTransfer_next`), and the first
that cannot (`exec_cpTransfer_fails`). -/
theorem coprocessorTransferResults : Obligations.CoprocessorTransferResults := by
  rintro i t s _ _ _ hi hc hm rfl rfl rfl
  have hs : s.StartsIf i.condition [t.rn] := ⟨hc, hm⟩
  refine ⟨exec_cpTransfer_pc hi hs, fun hrn => ⟨fun hn h => ?words, fun j a hj h ha => ?failing⟩⟩
  case words =>
    have hexec := exec_cpTransfer_next hi hs hrn hn h
    refine ⟨fun hl => ?ldc, fun hl => ⟨_, hexec, ?stc⟩⟩
    case ldc =>
      rw [hexec, hl]
      rfl
    case stc =>
      rw [hl] at h ⊢
      exact ⟨rfl, State.blockStored_cpMoved (Nat.le_refl _) h rfl rfl⟩
  case failing =>
    subst ha
    obtain ⟨r, hexec, fails⟩ := exec_cpTransfer_fails hi hs hrn hj h
    refine ⟨fun hal => ?misaligned, fun hal hmap => ?unmapped, fun hal hmap hab => ?aborted⟩
    case misaligned => rw [hexec, fails.misaligned hal]
    case unmapped => rw [hexec, fails.unmapped hal hmap]
    case aborted =>
      rw [fails.aborted hal hmap hab, ← apply_ite Host.Outcome.next] at hexec
      refine ⟨_, hexec, fun hl => ?ldcUpTo, fun hl => ?stcUpTo⟩
      case ldcUpTo =>
        rw [hl]
        rfl
      case stcUpTo =>
        rw [hl] at hj h ⊢
        exact ⟨rfl, State.blockStored_cpMoved (Nat.le_of_lt hj) h rfl rfl⟩

end Sys2Proof.Machine

/-!
PROOFS. Operand 2: the value and the carry-out of the rotated constant and of each shift, by a constant and by a
register, and R15 in the register-shift forms.
-/

namespace Sys2Proof.Machine

/-! ## The rotated constant (R94) -/

/-- Settles O13: the immediate form is the rotation of the constant. -/
theorem immediateOperand : Obligations.ImmediateOperand := by
  refine ⟨fun rot imm s => ⟨fun i hi => getLsbD_rotateRight_mod _ _ i hi, rfl⟩, fun s => rfl⟩

/-! ## Shifts by a constant (R95 to R97) -/

theorem toNat_shiftLeft_eq_mul (x : Word) (n : Nat) : (x <<< n).toNat = x.toNat * 2 ^ n % 2 ^ 32 := by
  rw [BitVec.toNat_shiftLeft, Nat.shiftLeft_eq]

/-- An arithmetic shift to the right is the floor of the signed quotient. -/
theorem toInt_sshiftRight_eq_div (x : Word) (n : Nat) : (x.sshiftRight n).toInt = x.toInt / 2 ^ n := by
  rw [BitVec.toInt_sshiftRight, Int.shiftRight_eq_div_pow]
  norm_cast

theorem operand2Eval_shift (amt : BitVec 5) (sh : ShiftKind) (rm : Reg) (s : State) :
    operand2Eval (.shift amt sh rm) s = shiftByImm sh amt (s.reg rm) (Psr.c s.cpsr) := rfl

theorem toNat_eq_zero_iff_field (amt : BitVec 5) : amt.toNat = 0 ↔ amt = 0#5 := by
  rw [← BitVec.toNat_inj]; rfl

/-- The number of places of LSR and ASR by a constant (R96): a field of 0 means 32. -/
def rightPlaces (amt : BitVec 5) : Nat := if amt = 0#5 then 32 else amt.toNat

theorem shiftByImm_lsl (amt : BitVec 5) (x : Word) (cin : Bool) :
    shiftByImm .lsl amt x cin = (x <<< amt.toNat, if amt = 0#5 then cin else x.getLsbD (32 - amt.toNat)) := by
  by_cases h : amt = 0#5
  case pos => subst h; simp [shiftByImm]
  case neg => simp [shiftByImm, h, toNat_eq_zero_iff_field]

theorem shiftByImm_lsr (amt : BitVec 5) (x : Word) (cin : Bool) :
    shiftByImm .lsr amt x cin = (x >>> rightPlaces amt, x.getLsbD (rightPlaces amt - 1)) := by
  by_cases h : amt = 0#5
  case pos => subst h; simp [shiftByImm, rightPlaces, BitVec.ushiftRight_eq_zero]
  case neg => simp [shiftByImm, rightPlaces, h, toNat_eq_zero_iff_field]

theorem shiftByImm_asr (amt : BitVec 5) (x : Word) (cin : Bool) :
    shiftByImm .asr amt x cin = (x.sshiftRight (rightPlaces amt), x.getLsbD (rightPlaces amt - 1)) := by
  by_cases h : amt = 0#5
  case pos => subst h; rfl
  case neg => simp [shiftByImm, rightPlaces, h, toNat_eq_zero_iff_field]

theorem shiftByImm_ror {amt : BitVec 5} (h : amt ≠ 0#5) (x : Word) (cin : Bool) :
    shiftByImm .ror amt x cin = (x.rotateRight (rightPlaces amt), x.getLsbD (rightPlaces amt - 1)) := by
  simp [shiftByImm, rightPlaces, h, toNat_eq_zero_iff_field]

/-- Settles O14: the shift is the product, and a field of 0 is no shift. -/
theorem shiftLeftByImmediate : Obligations.ShiftLeftByImmediate := by
  refine ⟨fun amt rm s => ?_, fun c => rfl⟩
  rw [operand2Eval_shift, shiftByImm_lsl]
  exact ⟨toNat_shiftLeft_eq_mul _ _, rfl⟩

/-- Settles O15: each shift moves by `rightPlaces`. -/
theorem shiftRightByImmediate : Obligations.ShiftRightByImmediate := by
  refine ⟨fun amt rm s n hn => ?_, fun c => ⟨rfl, rfl, rfl, rfl, rfl⟩⟩
  obtain rfl : n = rightPlaces amt := hn
  simp only [operand2Eval_shift]
  rw [shiftByImm_lsr, shiftByImm_asr]
  refine ⟨toNat_ushiftRight_eq_div _ _, rfl, toInt_sshiftRight_eq_div _ _, rfl, fun h => ?ror⟩
  case ror =>
    rw [shiftByImm_ror h]
    exact ⟨getLsbD_rotateRight_mod _ _, rfl⟩

/-- Settles O16: C stands above the upper 31 bits of the register. -/
theorem rotateRightExtended : Obligations.RotateRightExtended := by
  refine ⟨fun rm s => ?_, rfl, rfl⟩
  have hvalue (i : Nat) : (operand2Eval (.shift 0#5 .ror rm) s).1.getLsbD i
      = if i < 31 then ((s.reg rm).extractLsb' 1 31).getLsbD i else (BitVec.ofBool (Psr.c s.cpsr)).getLsbD (i - 31) :=
    BitVec.getLsbD_append
  refine ⟨fun i hi => ?below, ?top, rfl⟩
  case below => rw [hvalue, if_pos hi, BitVec.getLsbD_extractLsb', Nat.add_comm 1 i, decide_eq_true hi, Bool.true_and]
  case top => rw [hvalue, if_neg (by decide), Nat.sub_self, BitVec.getLsbD_ofBool, decide_eq_true rfl, Bool.true_and]

/-! ## Shifts by a register (R98) -/

theorem rotateRight_of_dvd {x : Word} {n : Nat} (h : n % 32 = 0) : x.rotateRight n = x := by
  refine BitVec.eq_of_getLsbD_eq fun i hi => ?_
  rw [getLsbD_rotateRight_mod x n i hi, show (i + n) % 32 = i by omega]

section ByRegister

variable {n : Nat} (hn : n ≠ 0) (x : Word) (cin : Bool)
include hn

theorem shiftByReg_lsl : shiftByReg .lsl n x cin = (x <<< n, decide (n ≤ 32) && x.getLsbD (32 - n)) := by
  rcases Nat.lt_trichotomy n 32 with h | rfl | h
  · simp [shiftByReg, hn, h, Nat.le_of_lt h]
  · simp [shiftByReg, BitVec.shiftLeft_eq_zero]
  · simp [shiftByReg, hn, Nat.not_lt_of_gt h, Nat.ne_of_gt h, Nat.not_le_of_gt h,
      BitVec.shiftLeft_eq_zero (x := x) (Nat.le_of_lt h)]

theorem shiftByReg_lsr : shiftByReg .lsr n x cin = (x >>> n, x.getLsbD (n - 1)) := by
  rcases Nat.lt_trichotomy n 32 with h | rfl | h
  · simp [shiftByReg, hn, h]
  · simp [shiftByReg, BitVec.ushiftRight_eq_zero]
  · simp [shiftByReg, hn, Nat.not_lt_of_gt h, Nat.ne_of_gt h, BitVec.ushiftRight_eq_zero (x := x) (Nat.le_of_lt h),
      BitVec.getLsbD_of_ge x (n - 1) (by omega)]

theorem shiftByReg_asr : shiftByReg .asr n x cin = (x.sshiftRight n, x.getLsbD (min n 32 - 1)) := by
  by_cases h : n < 32
  · simp [shiftByReg, hn, h, Nat.min_eq_left (Nat.le_of_lt h)]
  · simp [shiftByReg, hn, h, Nat.min_eq_right (Nat.le_of_not_lt h), sshiftRight_eq_of_le x n (Nat.le_of_not_lt h)]

theorem shiftByReg_ror : shiftByReg .ror n x cin = (x.rotateRight n, x.getLsbD ((n + 31) % 32)) := by
  by_cases h : n % 32 = 0
  · rw [show (n + 31) % 32 = 31 by omega, rotateRight_of_dvd h]
    simp [shiftByReg, hn, h]
  · rw [show (n + 31) % 32 = n % 32 - 1 by omega]
    simp [shiftByReg, hn, h, BitVec.rotateRight_mod_eq_rotateRight]

end ByRegister

theorem operand2Eval_reg (rs : Reg) (sh : ShiftKind) (rm : Reg) (s : State) :
    operand2Eval (.reg rs sh rm) s = shiftByReg sh ((s.reg rs).toNat % 256) (s.reg rm) (Psr.c s.cpsr) := by
  rw [operand2Eval, BitVec.extractLsb'_toNat]
  rfl

/-- Settles O17: the value and the carry-out of each shift, for every amount. -/
theorem shiftByRegister : Obligations.ShiftByRegister := by
  refine ⟨?_, fun c => rfl⟩
  rintro rs rm s n rfl
  simp only [operand2Eval_reg]
  refine ⟨fun sh h => if_pos h, fun hn => ?_⟩
  rw [shiftByReg_lsl hn, shiftByReg_lsr hn, shiftByReg_asr hn, shiftByReg_ror hn]
  exact ⟨toNat_shiftLeft_eq_mul _ _, rfl, toNat_ushiftRight_eq_div _ _, rfl, toInt_sshiftRight_eq_div _ _, rfl,
    getLsbD_rotateRight_mod _ _, rfl⟩

end Sys2Proof.Machine

namespace Sys2Proof

open Sys2Proof.Machine

/-! ## R15 in a register-shift form (R99) -/

theorem namesPc_reg {named : List Reg} (h : 15#4 ∈ named) (rs : Reg) (sh : ShiftKind) (rm : Reg) :
    namesPc named (.reg rs sh rm) = true := by
  simp [namesPc, operand2IsRegShift, h]

/-- Settles O18: `State.reg` reads R15 as its own address plus 8, and both frames of data processing test `namesPc`
first. -/
theorem pcInOperandTwo : Obligations.PcInOperandTwo := by
  refine ⟨State.reg_pc, fun amt sh s => ?shifted, fun k c sf rn rd rs sh rm s hs hp => ?dp,
    fun k c rn rs sh rm s hs hp => ?cmp⟩
  case shifted => rw [operand2Eval, State.reg_pc]
  case dp =>
    rw [DpName.named_eq] at hs hp
    rw [DpName.exec_instr, dataProcessing, conditional_starts hs, if_pos (namesPc_reg hp rs sh rm)]
  case cmp =>
    rw [CompareName.exec_instr, Machine.compare, operand2Regs, conditional_starts hs, if_pos (namesPc_reg hp rs sh rm)]

end Sys2Proof

/-!
PROOFS. The conditions after a compare: the flags of a difference, and the relations that the conditions then are.
-/

namespace Sys2Proof

open Sys2Proof.Machine

/-! ## The relations of the conditions (R91) -/

/-- What the name of a condition says of the operands of a compare (R91). -/
def Cond.relates (c : Cond) (a b : Word) : Bool :=
  match c with
  | .eq => decide (a = b)
  | .ne => decide (a ≠ b)
  | .cs => decide (b.toNat ≤ a.toNat)
  | .cc => decide (a.toNat < b.toNat)
  | .mi => (a - b).getLsbD 31
  | .pl => !(a - b).getLsbD 31
  | .vs => decide ((a - b).toInt ≠ a.toInt - b.toInt)
  | .vc => decide ((a - b).toInt = a.toInt - b.toInt)
  | .hi => decide (b.toNat < a.toNat)
  | .ls => decide (a.toNat ≤ b.toNat)
  | .ge => decide (b.toInt ≤ a.toInt)
  | .lt => decide (a.toInt < b.toInt)
  | .gt => decide (b.toInt < a.toInt)
  | .le => decide (a.toInt ≤ b.toInt)
  | .al => true

/-- The CPSR after `CMP` of `a` with `b` (R208). -/
def compared (p a b : Word) : Word :=
  flagsIf true p (a - b) (ArithmeticName.sub.carry a b false) (ArithmeticName.sub.overflow a b false)

section Compared

variable (p a b : Word)

theorem Psr.n_compared : Psr.n (compared p a b) = decide ((a - b).toInt < 0) := by
  rw [← BitVec.msb_eq_toInt, BitVec.msb_eq_getLsbD_last]
  exact Psr.n_withNZCV ..

theorem Psr.z_compared : Psr.z (compared p a b) = decide (a = b) := by
  refine (Psr.z_withNZCV ..).trans (decide_eq_decide.mpr ?_)
  exact sub_eq_zero

theorem Psr.c_compared : Psr.c (compared p a b) = decide (b.toNat ≤ a.toNat) := by
  refine (Psr.c_withNZCV ..).trans (decide_eq_decide.mpr ?_)
  simp only [ArithmeticName.exact]
  omega

/-- V says that the difference of the words is not the exact difference. -/
theorem Psr.v_compared : Psr.v (compared p a b) = decide ((a - b).toInt ≠ a.toInt - b.toInt) := by
  refine (Psr.v_withNZCV ..).trans (decide_eq_decide.mpr ?_)
  simp only [ArithmeticName.exact, BitVec.toInt_sub]
  have := a.toInt_lt
  have := b.toInt_lt
  have := a.le_toInt
  have := b.le_toInt
  rw [Int.bmod_def]
  omega

/-- N is V when the exact difference is not negative (R91, GE). -/
theorem Psr.n_eq_v_compared : (Psr.n (compared p a b) == Psr.v (compared p a b)) = decide (b.toInt ≤ a.toInt) := by
  rw [Psr.n_compared, Psr.v_compared, Bool.eq_iff_iff]
  simp only [BitVec.toInt_sub, beq_iff_eq, decide_eq_decide, decide_eq_true_eq]
  have := a.toInt_lt
  have := b.toInt_lt
  have := a.le_toInt
  have := b.le_toInt
  rw [Int.bmod_def]
  omega

end Compared

/-- CMP whose condition passes ends with the CPSR `compared`. -/
theorem cpsr_of_exec_cmp {c : Cond} {rn : Reg} {o : Operand2} {s t : State} (hc : condHolds c s.cpsr = true)
    (h : exec (CompareName.cmp.instr c rn o) s = .next t) :
    t.cpsr = compared s.cpsr (s.reg rn) (operand2Eval o s).1 := by
  rw [CompareName.exec_instr] at h
  rcases compare_next h with ⟨hfails, -, -⟩ | ⟨-, -, -, -, rfl⟩
  · rw [hc] at hfails; cases hfails
  · rw [State.withCpsr_cpsr, aluFlags_eq, CompareName.op, aluResult_cmpOp, compared]

/-- The conditions after a compare: those of one flag, and the relations that join two. -/
theorem condHolds_compared (c : Cond) (p a b : Word) : condHolds c (compared p a b) = c.relates a b := by
  have hunsigned : a = b ↔ a.toNat = b.toNat := BitVec.toNat_inj.symm
  have hsigned : a = b ↔ a.toInt = b.toInt := BitVec.toInt_inj.symm
  cases c <;> simp only [condHolds, bne, Psr.n_eq_v_compared]
  case al => rfl
  case mi => exact Psr.n_withNZCV ..
  case pl => exact congrArg not (Psr.n_withNZCV ..)
  all_goals simp only [Psr.z_compared, Psr.c_compared, Psr.v_compared, Cond.relates, ← decide_not, ← Bool.decide_and,
    ← Bool.decide_or, decide_eq_decide, not_not]
  case hi | ls => rw [hunsigned]; omega
  case gt | le => rw [hsigned]; omega
  case cc | lt => omega

/-- Settles O22: the CPSR is `compared`. -/
theorem conditionsAfterCompare : Obligations.ConditionsAfterCompare := by
  rintro c rn o s t a b rfl rfl hc h
  rw [cpsr_of_exec_cmp hc h]
  and_intros <;> exact condHolds_compared ..

end Sys2Proof

/-!
PROOFS. The formats of the instruction words: where each format (R100 to R110) holds the fields and bits that the
decoder reads, and every word of a class as a word of the class's format.
-/

namespace Sys2Proof

/-! ## Bits of a concatenation -/

theorem getLsbD_append_low {n m k : Nat} (x : BitVec n) (y : BitVec m) (h : k < m) :
    (x ++ y).getLsbD k = y.getLsbD k := by
  rw [BitVec.getLsbD_append, if_pos h]

theorem getLsbD_append_high {n m k : Nat} (x : BitVec n) (y : BitVec m) (h : m ≤ k) :
    (x ++ y).getLsbD k = x.getLsbD (k - m) := by
  rw [BitVec.getLsbD_append, if_neg (Nat.not_lt.mpr h)]

/-- A bit as a field of one bit. -/
theorem ofBool_getLsbD {n : Nat} (x : BitVec n) (k : Nat) : BitVec.ofBool (x.getLsbD k) = x.extractLsb' k 1 := by
  refine BitVec.eq_of_getLsbD_eq fun j hj => ?_
  obtain rfl : j = 0 := by omega
  simp

theorem one_eq_field {n : Nat} {x : BitVec n} {k : Nat} (h : x.getLsbD k = true) : 0b1#1 = x.extractLsb' k 1 := by
  rw [← ofBool_getLsbD, h]
  rfl

theorem zero_eq_field {n : Nat} {x : BitVec n} {k : Nat} (h : x.getLsbD k = false) : 0b0#1 = x.extractLsb' k 1 := by
  rw [← ofBool_getLsbD, h]
  rfl

/-! ## Codes read back -/

theorem Cond.eq_bits_of_ofBits {b : BitVec 4} {c : Cond} (h : Cond.ofBits b = some c) : b = c.bits := by
  revert b c; decide

theorem Cond.eq_of_ofBits_none {b : BitVec 4} (h : Cond.ofBits b = none) : b = 0xF#4 := by
  revert b; decide

@[simp] theorem ShiftKind.bits_ofBits (b : BitVec 2) : (ShiftKind.ofBits b).bits = b := by
  revert b; decide

@[simp] theorem BlockMode.bits_ofBits (b : BitVec 2) : (BlockMode.ofBits b).bits = b := by
  revert b; decide

/-! ## Register operands (R100) -/

theorem shiftField_fields (amt : BitVec 5) (sh : ShiftKind) (rm : Reg) :
    (shiftField amt sh rm).extractLsb' 7 5 = amt ∧ (shiftField amt sh rm).extractLsb' 5 2 = sh.bits
      ∧ (shiftField amt sh rm).extractLsb' 0 4 = rm ∧ (shiftField amt sh rm).getLsbD 4 = false := by
  and_intros
  all_goals simp (disch := decide) only [shiftField, extractLsb'_append_low, extractLsb'_append_high,
    getLsbD_append_low, getLsbD_append_high]
  all_goals simp

theorem regShiftField_fields (rs : Reg) (sh : ShiftKind) (rm : Reg) :
    (regShiftField rs sh rm).extractLsb' 8 4 = rs ∧ (regShiftField rs sh rm).extractLsb' 5 2 = sh.bits
      ∧ (regShiftField rs sh rm).extractLsb' 0 4 = rm ∧ (regShiftField rs sh rm).getLsbD 4 = true
      ∧ (regShiftField rs sh rm).getLsbD 7 = false := by
  and_intros
  all_goals simp (disch := decide) only [regShiftField, extractLsb'_append_low, extractLsb'_append_high,
    getLsbD_append_low, getLsbD_append_high]
  all_goals simp

/-! ## The formats

The top four bits are in `Laws.EncodeCond` (`dpWord_top` and the like); here the class (bits 27:25), then the other
fields, then the single bits. -/

theorem dpWord_class (c : Cond) (i : Bool) (op : BitVec 4) (sf : Bool) (rn rd : Reg) (o : BitVec 12) :
    (dpWord c i op sf rn rd o).extractLsb' 25 3 = 0b00#2 ++ BitVec.ofBool i := by
  simp (disch := decide) only [dpWord, extractLsb'_append_high]
  cases c <;> cases i <;> rfl

theorem dpWord_fields (c : Cond) (i : Bool) (op : BitVec 4) (sf : Bool) (rn rd : Reg) (o : BitVec 12) :
    (dpWord c i op sf rn rd o).extractLsb' 23 2 = op.extractLsb' 2 2
      ∧ (dpWord c i op sf rn rd o).extractLsb' 21 4 = op ∧ (dpWord c i op sf rn rd o).extractLsb' 16 4 = rn
      ∧ (dpWord c i op sf rn rd o).extractLsb' 12 4 = rd
      ∧ ∀ k n, k + n ≤ 12 → (dpWord c i op sf rn rd o).extractLsb' k n = o.extractLsb' k n := by
  refine ⟨?_, ?_, ?_, ?_, fun _ _ h => extractLsb'_append_low _ _ h⟩
  all_goals simp (disch := decide) only [dpWord, extractLsb'_append_low, extractLsb'_append_high]
  all_goals simp

theorem dpWord_bits (c : Cond) (i : Bool) (op : BitVec 4) (sf : Bool) (rn rd : Reg) (o : BitVec 12) :
    (dpWord c i op sf rn rd o).getLsbD 20 = sf ∧ ∀ k < 12, (dpWord c i op sf rn rd o).getLsbD k = o.getLsbD k := by
  refine ⟨?_, fun _ h => getLsbD_append_low _ _ h⟩
  all_goals simp (disch := decide) only [dpWord, getLsbD_append_low, getLsbD_append_high]
  all_goals simp

theorem mulWord_class (c : Cond) (op : BitVec 7) (sf : Bool) (hi lo rs rm : Reg) :
    (mulWord c op sf hi lo rs rm).extractLsb' 25 3 = op.extractLsb' 4 3 := by
  simp (disch := decide) only [mulWord, extractLsb'_append_low, extractLsb'_append_high]

theorem mulWord_fields (c : Cond) (op : BitVec 7) (sf : Bool) (hi lo rs rm : Reg) :
    (mulWord c op sf hi lo rs rm).extractLsb' 21 4 = op.extractLsb' 0 4
      ∧ (mulWord c op sf hi lo rs rm).extractLsb' 16 4 = hi ∧ (mulWord c op sf hi lo rs rm).extractLsb' 12 4 = lo
      ∧ (mulWord c op sf hi lo rs rm).extractLsb' 8 4 = rs
      ∧ (mulWord c op sf hi lo rs rm).extractLsb' 4 4 = 0b1001#4
      ∧ (mulWord c op sf hi lo rs rm).extractLsb' 0 4 = rm := by
  and_intros
  all_goals simp (disch := decide) only [mulWord, extractLsb'_append_low, extractLsb'_append_high]
  all_goals simp

theorem mulWord_bits (c : Cond) (op : BitVec 7) (sf : Bool) (hi lo rs rm : Reg) :
    (mulWord c op sf hi lo rs rm).getLsbD 20 = sf := by
  simp (disch := decide) only [mulWord, getLsbD_append_low, getLsbD_append_high]
  simp

theorem miscWord_class (c : Cond) (op : BitVec 8) (a b d low : BitVec 4) (rm : Reg) :
    (miscWord c op a b d low rm).extractLsb' 25 3 = op.extractLsb' 5 3 := by
  simp (disch := decide) only [miscWord, extractLsb'_append_low, extractLsb'_append_high]

theorem miscWord_fields (c : Cond) (op : BitVec 8) (a b d low : BitVec 4) (rm : Reg) :
    (miscWord c op a b d low rm).extractLsb' 23 2 = op.extractLsb' 3 2
      ∧ (miscWord c op a b d low rm).extractLsb' 21 2 = op.extractLsb' 1 2
      ∧ (miscWord c op a b d low rm).extractLsb' 16 4 = a ∧ (miscWord c op a b d low rm).extractLsb' 12 4 = b
      ∧ (miscWord c op a b d low rm).extractLsb' 8 4 = d ∧ (miscWord c op a b d low rm).extractLsb' 4 4 = low
      ∧ (miscWord c op a b d low rm).extractLsb' 0 4 = rm := by
  and_intros
  all_goals simp (disch := decide) only [miscWord, extractLsb'_append_low, extractLsb'_append_high]
  all_goals simp

theorem miscWord_bits (c : Cond) (op : BitVec 8) (a b d low : BitVec 4) (rm : Reg) :
    (miscWord c op a b d low rm).getLsbD 22 = op.getLsbD 2
      ∧ (miscWord c op a b d low rm).getLsbD 21 = op.getLsbD 1
      ∧ (miscWord c op a b d low rm).getLsbD 20 = op.getLsbD 0
      ∧ (miscWord c op a b d low rm).getLsbD 7 = low.getLsbD 3
      ∧ (miscWord c op a b d low rm).getLsbD 6 = low.getLsbD 2
      ∧ (miscWord c op a b d low rm).getLsbD 5 = low.getLsbD 1
      ∧ (miscWord c op a b d low rm).getLsbD 4 = low.getLsbD 0 := by
  and_intros
  all_goals simp (disch := decide) only [miscWord, getLsbD_append_low, getLsbD_append_high]

/-- Fields of several nibbles. -/
theorem miscWord_nibbles (c : Cond) (op : BitVec 8) (a b d low : BitVec 4) (rm : Reg) :
    (miscWord c op a b d low rm).extractLsb' 8 8 = b ++ d
      ∧ (miscWord c op a b d low rm).extractLsb' 8 12 = a ++ b ++ d
      ∧ (miscWord c op a b d low rm).extractLsb' 0 12 = d ++ low ++ rm
      ∧ (miscWord c op a b d low rm).extractLsb' 0 8 = low ++ rm := by
  obtain ⟨-, -, ha, hb, hd, hlow, hrm⟩ := miscWord_fields c op a b d low rm
  generalize miscWord c op a b d low rm = w at *
  subst ha hb hd hlow hrm
  and_intros
  all_goals simp (disch := decide) only [BitVec.extractLsb'_append_extractLsb'_eq_extractLsb']

theorem mode2Word_class (c : Cond) (i p u b w l : Bool) (rn rd : Reg) (am : BitVec 12) :
    (mode2Word c i p u b w l rn rd am).extractLsb' 25 3 = 0b01#2 ++ BitVec.ofBool i := by
  simp (disch := decide) only [mode2Word, extractLsb'_append_high]
  cases c <;> cases i <;> rfl

theorem mode2Word_fields (c : Cond) (i p u b w l : Bool) (rn rd : Reg) (am : BitVec 12) :
    (mode2Word c i p u b w l rn rd am).extractLsb' 16 4 = rn
      ∧ (mode2Word c i p u b w l rn rd am).extractLsb' 12 4 = rd
      ∧ ∀ k n, k + n ≤ 12 → (mode2Word c i p u b w l rn rd am).extractLsb' k n = am.extractLsb' k n := by
  refine ⟨?_, ?_, fun _ _ h => extractLsb'_append_low _ _ h⟩
  all_goals simp (disch := decide) only [mode2Word, extractLsb'_append_low, extractLsb'_append_high]
  all_goals simp

theorem mode2Word_bits (c : Cond) (i p u b w l : Bool) (rn rd : Reg) (am : BitVec 12) :
    (mode2Word c i p u b w l rn rd am).getLsbD 24 = p ∧ (mode2Word c i p u b w l rn rd am).getLsbD 23 = u
      ∧ (mode2Word c i p u b w l rn rd am).getLsbD 22 = b ∧ (mode2Word c i p u b w l rn rd am).getLsbD 21 = w
      ∧ (mode2Word c i p u b w l rn rd am).getLsbD 20 = l
      ∧ ∀ k < 12, (mode2Word c i p u b w l rn rd am).getLsbD k = am.getLsbD k := by
  refine ⟨?_, ?_, ?_, ?_, ?_, fun _ h => getLsbD_append_low _ _ h⟩
  all_goals simp (disch := decide) only [mode2Word, getLsbD_append_low, getLsbD_append_high]
  all_goals simp

theorem mode3Word_class (c : Cond) (p u i w : Bool) (lsh : BitVec 3) (rn rd hi lo : BitVec 4) :
    (mode3Word c p u i w lsh rn rd hi lo).extractLsb' 25 3 = 0b000#3 := by
  simp (disch := decide) only [mode3Word, extractLsb'_append_low, extractLsb'_append_high]
  rfl

theorem mode3Word_fields (c : Cond) (p u i w : Bool) (lsh : BitVec 3) (rn rd hi lo : BitVec 4) :
    (mode3Word c p u i w lsh rn rd hi lo).extractLsb' 16 4 = rn
      ∧ (mode3Word c p u i w lsh rn rd hi lo).extractLsb' 12 4 = rd
      ∧ (mode3Word c p u i w lsh rn rd hi lo).extractLsb' 8 4 = hi
      ∧ (mode3Word c p u i w lsh rn rd hi lo).extractLsb' 0 4 = lo := by
  and_intros
  all_goals simp (disch := decide) only [mode3Word, extractLsb'_append_low, extractLsb'_append_high]
  all_goals simp

theorem mode3Word_bits (c : Cond) (p u i w : Bool) (lsh : BitVec 3) (rn rd hi lo : BitVec 4) :
    (mode3Word c p u i w lsh rn rd hi lo).getLsbD 24 = p ∧ (mode3Word c p u i w lsh rn rd hi lo).getLsbD 23 = u
      ∧ (mode3Word c p u i w lsh rn rd hi lo).getLsbD 22 = i
      ∧ (mode3Word c p u i w lsh rn rd hi lo).getLsbD 21 = w
      ∧ (mode3Word c p u i w lsh rn rd hi lo).getLsbD 20 = lsh.getLsbD 2
      ∧ (mode3Word c p u i w lsh rn rd hi lo).getLsbD 7 = true
      ∧ (mode3Word c p u i w lsh rn rd hi lo).getLsbD 6 = lsh.getLsbD 1
      ∧ (mode3Word c p u i w lsh rn rd hi lo).getLsbD 5 = lsh.getLsbD 0
      ∧ (mode3Word c p u i w lsh rn rd hi lo).getLsbD 4 = true := by
  and_intros
  all_goals simp (disch := decide) only [mode3Word, getLsbD_append_low, getLsbD_append_high]
  all_goals simp

theorem blockWord_class (c : Cond) (am : BlockMode) (sf w l : Bool) (rn : Reg) (list : BitVec 16) :
    (blockWord c am sf w l rn list).extractLsb' 25 3 = 0b100#3 := by
  simp (disch := decide) only [blockWord, extractLsb'_append_low, extractLsb'_append_high]
  rfl

theorem blockWord_fields (c : Cond) (am : BlockMode) (sf w l : Bool) (rn : Reg) (list : BitVec 16) :
    (blockWord c am sf w l rn list).extractLsb' 23 2 = am.bits
      ∧ (blockWord c am sf w l rn list).extractLsb' 16 4 = rn
      ∧ ∀ k n, k + n ≤ 16 → (blockWord c am sf w l rn list).extractLsb' k n = list.extractLsb' k n := by
  refine ⟨?_, ?_, fun _ _ h => extractLsb'_append_low _ _ h⟩
  all_goals simp (disch := decide) only [blockWord, extractLsb'_append_low, extractLsb'_append_high]
  all_goals simp

theorem blockWord_bits (c : Cond) (am : BlockMode) (sf w l : Bool) (rn : Reg) (list : BitVec 16) :
    (blockWord c am sf w l rn list).getLsbD 22 = sf ∧ (blockWord c am sf w l rn list).getLsbD 21 = w
      ∧ (blockWord c am sf w l rn list).getLsbD 20 = l
      ∧ ∀ k < 16, (blockWord c am sf w l rn list).getLsbD k = list.getLsbD k := by
  refine ⟨?_, ?_, ?_, fun _ h => getLsbD_append_low _ _ h⟩
  all_goals simp (disch := decide) only [blockWord, getLsbD_append_low, getLsbD_append_high]
  all_goals simp

theorem branchWord_class (top : BitVec 4) (b : Bool) (imm : BitVec 24) :
    (branchWord top b imm).extractLsb' 25 3 = 0b101#3 := by
  simp (disch := decide) only [branchWord, extractLsb'_append_low, extractLsb'_append_high]
  rfl

theorem branchWord_fields (top : BitVec 4) (b : Bool) (imm : BitVec 24) :
    (branchWord top b imm).extractLsb' 0 24 = imm := by
  simp (disch := decide) only [branchWord, extractLsb'_append_low]
  simp

theorem branchWord_bits (top : BitVec 4) (b : Bool) (imm : BitVec 24) :
    (branchWord top b imm).getLsbD 24 = b := by
  simp (disch := decide) only [branchWord, getLsbD_append_low, getLsbD_append_high]
  simp

theorem cpMemWord_class (top : BitVec 4) (p u n w l : Bool) (rn : Reg) (crd cp : BitVec 4) (off : BitVec 8) :
    (cpMemWord top p u n w l rn crd cp off).extractLsb' 25 3 = 0b110#3 := by
  simp (disch := decide) only [cpMemWord, extractLsb'_append_low, extractLsb'_append_high]
  rfl

theorem cpMemWord_fields (top : BitVec 4) (p u n w l : Bool) (rn : Reg) (crd cp : BitVec 4) (off : BitVec 8) :
    (cpMemWord top p u n w l rn crd cp off).extractLsb' 16 4 = rn
      ∧ (cpMemWord top p u n w l rn crd cp off).extractLsb' 12 4 = crd
      ∧ (cpMemWord top p u n w l rn crd cp off).extractLsb' 8 4 = cp
      ∧ (cpMemWord top p u n w l rn crd cp off).extractLsb' 0 8 = off := by
  and_intros
  all_goals simp (disch := decide) only [cpMemWord, extractLsb'_append_low, extractLsb'_append_high]
  all_goals simp

theorem cpMemWord_bits (top : BitVec 4) (p u n w l : Bool) (rn : Reg) (crd cp : BitVec 4) (off : BitVec 8) :
    (cpMemWord top p u n w l rn crd cp off).getLsbD 24 = p
      ∧ (cpMemWord top p u n w l rn crd cp off).getLsbD 23 = u
      ∧ (cpMemWord top p u n w l rn crd cp off).getLsbD 22 = n
      ∧ (cpMemWord top p u n w l rn crd cp off).getLsbD 21 = w
      ∧ (cpMemWord top p u n w l rn crd cp off).getLsbD 20 = l := by
  and_intros
  all_goals simp (disch := decide) only [cpMemWord, getLsbD_append_low, getLsbD_append_high]
  all_goals simp

theorem cpOpWord_class (top op1 crn rd cp : BitVec 4) (op2 : BitVec 3) (b : Bool) (crm : BitVec 4) :
    (cpOpWord top op1 crn rd cp op2 b crm).extractLsb' 25 3 = 0b111#3 := by
  simp (disch := decide) only [cpOpWord, extractLsb'_append_low, extractLsb'_append_high]
  rfl

theorem cpOpWord_fields (top op1 crn rd cp : BitVec 4) (op2 : BitVec 3) (b : Bool) (crm : BitVec 4) :
    (cpOpWord top op1 crn rd cp op2 b crm).extractLsb' 21 3 = op1.extractLsb' 1 3
      ∧ (cpOpWord top op1 crn rd cp op2 b crm).extractLsb' 20 4 = op1
      ∧ (cpOpWord top op1 crn rd cp op2 b crm).extractLsb' 16 4 = crn
      ∧ (cpOpWord top op1 crn rd cp op2 b crm).extractLsb' 12 4 = rd
      ∧ (cpOpWord top op1 crn rd cp op2 b crm).extractLsb' 8 4 = cp
      ∧ (cpOpWord top op1 crn rd cp op2 b crm).extractLsb' 5 3 = op2
      ∧ (cpOpWord top op1 crn rd cp op2 b crm).extractLsb' 0 4 = crm := by
  and_intros
  all_goals simp (disch := decide) only [cpOpWord, extractLsb'_append_low, extractLsb'_append_high]
  all_goals simp

theorem cpOpWord_bits (top op1 crn rd cp : BitVec 4) (op2 : BitVec 3) (b : Bool) (crm : BitVec 4) :
    (cpOpWord top op1 crn rd cp op2 b crm).getLsbD 24 = false
      ∧ (cpOpWord top op1 crn rd cp op2 b crm).getLsbD 20 = op1.getLsbD 0
      ∧ (cpOpWord top op1 crn rd cp op2 b crm).getLsbD 4 = b := by
  and_intros
  all_goals simp (disch := decide) only [cpOpWord, getLsbD_append_low, getLsbD_append_high]
  all_goals simp

end Sys2Proof

/-! ## Every word of a class in its format -/

namespace Sys2Proof

section InFormat

variable {w : Word} {c : Cond} {top : BitVec 4} {cls : BitVec 3}

/-- The condition and the class as one field (R111). -/
theorem condition_class (h28 : w.extractLsb' 28 4 = top) (h25 : w.extractLsb' 25 3 = cls) :
    w.extractLsb' 25 7 = top ++ cls := by
  rw [← h28, ← h25, BitVec.extractLsb'_append_extractLsb'_eq_extractLsb' (by decide)]

/-- The class and bit 24 as one field (R109, R110). -/
theorem class_bit24 {b : Bool} (h25 : w.extractLsb' 25 3 = cls) (h24 : w.getLsbD 24 = b) :
    w.extractLsb' 24 4 = cls ++ BitVec.ofBool b := by
  rw [← h25, ← h24, ofBool_getLsbD, BitVec.extractLsb'_append_extractLsb'_eq_extractLsb' (by decide)]

section Conditional

variable (h28 : w.extractLsb' 28 4 = c.bits)
include h28

theorem exists_dpWord {i : Bool} (h25 : w.extractLsb' 25 3 = 0b00#2 ++ BitVec.ofBool i) :
    ∃ op sf rn rd o, w = dpWord c i op sf rn rd o := by
  have htop : w.extractLsb' 25 7 = c.bits ++ 0b00#2 ++ BitVec.ofBool i := by
    rw [condition_class h28 h25]
    cases c <;> cases i <;> rfl
  refine ⟨w.extractLsb' 21 4, w.getLsbD 20, w.extractLsb' 16 4, w.extractLsb' 12 4, w.extractLsb' 0 12, ?_⟩
  simp (disch := decide) only [dpWord, ← htop, ofBool_getLsbD, BitVec.extractLsb'_append_extractLsb'_eq_extractLsb',
    BitVec.extractLsb'_eq_self]

theorem exists_mulWord (h25 : w.extractLsb' 25 3 = 0b000#3) (h4 : w.extractLsb' 4 4 = 0b1001#4) :
    ∃ (op : BitVec 4) (sf : Bool) (hi lo rs rm : Reg), w = mulWord c (0b000#3 ++ op) sf hi lo rs rm := by
  refine ⟨w.extractLsb' 21 4, w.getLsbD 20, w.extractLsb' 16 4, w.extractLsb' 12 4, w.extractLsb' 8 4,
    w.extractLsb' 0 4, ?_⟩
  simp (disch := decide) only [mulWord, ← h28, ← h25, ← h4, ofBool_getLsbD,
    BitVec.extractLsb'_append_extractLsb'_eq_extractLsb', BitVec.extractLsb'_eq_self]

theorem exists_miscWord : ∃ op a b d low rm, w = miscWord c op a b d low rm := by
  refine ⟨w.extractLsb' 20 8, w.extractLsb' 16 4, w.extractLsb' 12 4, w.extractLsb' 8 4, w.extractLsb' 4 4,
    w.extractLsb' 0 4, ?_⟩
  simp (disch := decide) only [miscWord, ← h28, BitVec.extractLsb'_append_extractLsb'_eq_extractLsb',
    BitVec.extractLsb'_eq_self]

theorem exists_mode2Word {i : Bool} (h25 : w.extractLsb' 25 3 = 0b01#2 ++ BitVec.ofBool i) :
    ∃ p u b wb l rn rd am, w = mode2Word c i p u b wb l rn rd am := by
  have htop : w.extractLsb' 25 7 = c.bits ++ 0b01#2 ++ BitVec.ofBool i := by
    rw [condition_class h28 h25]
    cases c <;> cases i <;> rfl
  refine ⟨w.getLsbD 24, w.getLsbD 23, w.getLsbD 22, w.getLsbD 21, w.getLsbD 20, w.extractLsb' 16 4,
    w.extractLsb' 12 4, w.extractLsb' 0 12, ?_⟩
  simp (disch := decide) only [mode2Word, ← htop, ofBool_getLsbD,
    BitVec.extractLsb'_append_extractLsb'_eq_extractLsb', BitVec.extractLsb'_eq_self]

theorem exists_mode3Word (h25 : w.extractLsb' 25 3 = 0b000#3) (h7 : w.getLsbD 7 = true) (h4 : w.getLsbD 4 = true) :
    ∃ p u i wb l s h rn rd hi lo,
      w = mode3Word c p u i wb (BitVec.ofBool l ++ BitVec.ofBool s ++ BitVec.ofBool h) rn rd hi lo := by
  refine ⟨w.getLsbD 24, w.getLsbD 23, w.getLsbD 22, w.getLsbD 21, w.getLsbD 20, w.getLsbD 6, w.getLsbD 5,
    w.extractLsb' 16 4, w.extractLsb' 12 4, w.extractLsb' 8 4, w.extractLsb' 0 4, ?_⟩
  have hjoin : w = w.extractLsb' 25 7 ++ BitVec.ofBool (w.getLsbD 24) ++ BitVec.ofBool (w.getLsbD 23)
      ++ BitVec.ofBool (w.getLsbD 22) ++ BitVec.ofBool (w.getLsbD 21) ++ BitVec.ofBool (w.getLsbD 20)
      ++ w.extractLsb' 16 4 ++ w.extractLsb' 12 4 ++ w.extractLsb' 8 4 ++ BitVec.ofBool (w.getLsbD 7)
      ++ (BitVec.ofBool (w.getLsbD 6) ++ BitVec.ofBool (w.getLsbD 5)) ++ BitVec.ofBool (w.getLsbD 4)
      ++ w.extractLsb' 0 4 := by
    simp (disch := decide) only [ofBool_getLsbD, BitVec.extractLsb'_append_extractLsb'_eq_extractLsb',
      BitVec.extractLsb'_eq_self]
  rw [condition_class h28 h25, h7, h4] at hjoin
  refine hjoin.trans ?_
  cases w.getLsbD 20 <;> cases w.getLsbD 6 <;> cases w.getLsbD 5 <;> rfl

theorem exists_blockWord (h25 : w.extractLsb' 25 3 = 0b100#3) :
    ∃ am sf wb l rn list, w = blockWord c am sf wb l rn list := by
  refine ⟨BlockMode.ofBits (w.extractLsb' 23 2), w.getLsbD 22, w.getLsbD 21, w.getLsbD 20, w.extractLsb' 16 4,
    w.extractLsb' 0 16, ?_⟩
  simp (disch := decide) only [blockWord, ← condition_class h28 h25, BlockMode.bits_ofBits, ofBool_getLsbD,
    BitVec.extractLsb'_append_extractLsb'_eq_extractLsb', BitVec.extractLsb'_eq_self]

/-- The undefined pattern with a register field (R113 (a)). -/
theorem encode_undefReg_fields (h25 : w.extractLsb' 25 3 = 0b011#3) (h4 : w.getLsbD 4 = true) :
    encode (.undefReg c (w.extractLsb' 5 20) (w.extractLsb' 0 4)) = w := by
  simp (disch := decide) only [encode, ← condition_class h28 h25, one_eq_field h4,
    BitVec.extractLsb'_append_extractLsb'_eq_extractLsb', BitVec.extractLsb'_eq_self]

/-- The undefined pattern with a constant (R113 (b)). -/
theorem encode_undefImm_fields (h25 : w.extractLsb' 25 3 = 0b001#3) (h23 : w.extractLsb' 23 2 = 0b10#2)
    (h21 : w.getLsbD 21 = false) (h20 : w.getLsbD 20 = false) :
    encode (.undefImm c (w.getLsbD 22) (w.extractLsb' 0 20)) = w := by
  have hcls : 0b00110#5 = w.extractLsb' 25 3 ++ w.extractLsb' 23 2 := by
    rw [h25, h23]
    rfl
  have hlow : 0b00#2 = w.extractLsb' 21 1 ++ w.extractLsb' 20 1 := by
    rw [← zero_eq_field h21, ← zero_eq_field h20]
    rfl
  simp (disch := decide) only [encode, ← h28, hcls, hlow, ofBool_getLsbD,
    BitVec.extractLsb'_append_extractLsb'_eq_extractLsb', BitVec.extractLsb'_eq_self]

theorem encode_swi_fields (h25 : w.extractLsb' 25 3 = 0b111#3) (h24 : w.getLsbD 24 = true) :
    encode (.swi c (w.extractLsb' 0 24)) = w := by
  have hop : w.extractLsb' 24 4 = 0b1111#4 := class_bit24 h25 h24
  simp (disch := decide) only [encode, ← h28, ← hop, BitVec.extractLsb'_append_extractLsb'_eq_extractLsb',
    BitVec.extractLsb'_eq_self]

end Conditional

section Top

variable (h28 : w.extractLsb' 28 4 = top)
include h28

theorem exists_branchWord (h25 : w.extractLsb' 25 3 = 0b101#3) : ∃ b imm, w = branchWord top b imm := by
  refine ⟨w.getLsbD 24, w.extractLsb' 0 24, ?_⟩
  simp (disch := decide) only [branchWord, ← condition_class h28 h25, ofBool_getLsbD,
    BitVec.extractLsb'_append_extractLsb'_eq_extractLsb', BitVec.extractLsb'_eq_self]

theorem exists_cpMemWord (h25 : w.extractLsb' 25 3 = 0b110#3) :
    ∃ p u n wb l rn crd cp off, w = cpMemWord top p u n wb l rn crd cp off := by
  refine ⟨w.getLsbD 24, w.getLsbD 23, w.getLsbD 22, w.getLsbD 21, w.getLsbD 20, w.extractLsb' 16 4,
    w.extractLsb' 12 4, w.extractLsb' 8 4, w.extractLsb' 0 8, ?_⟩
  simp (disch := decide) only [cpMemWord, ← condition_class h28 h25, ofBool_getLsbD,
    BitVec.extractLsb'_append_extractLsb'_eq_extractLsb', BitVec.extractLsb'_eq_self]

/-- Bit 24 clear tells CDP, MRC and MCR from SWI (R109, R110). -/
theorem exists_cpOpWord (h25 : w.extractLsb' 25 3 = 0b111#3) (h24 : w.getLsbD 24 = false) :
    ∃ op1 crn rd cp op2 b crm, w = cpOpWord top op1 crn rd cp op2 b crm := by
  have hop : w.extractLsb' 24 4 = 0b1110#4 := class_bit24 h25 h24
  refine ⟨w.extractLsb' 20 4, w.extractLsb' 16 4, w.extractLsb' 12 4, w.extractLsb' 8 4, w.extractLsb' 5 3,
    w.getLsbD 4, w.extractLsb' 0 4, ?_⟩
  simp (disch := decide) only [cpOpWord, ← h28, ← hop, ofBool_getLsbD,
    BitVec.extractLsb'_append_extractLsb'_eq_extractLsb', BitVec.extractLsb'_eq_self]

end Top

end InFormat

end Sys2Proof

/-!
PROOFS. A word that decodes is the encoding of the well-formed instruction it decodes to: each region of the decoder
reads back the words of its format.
-/

namespace Sys2Proof

/-! ## What a reading of a word gives back -/

/-- A reading of the word `w` is sound: an instruction that it gives is well formed, and its encoding is `w`. -/
def ReadsBack (w : Word) (r : Except DecodeError Instr) : Prop :=
  ∀ i, r = .ok i → encode i = w ∧ i.wf = true

theorem readsBack_error (w : Word) (e : DecodeError) : ReadsBack w (.error e) :=
  fun _ h => nomatch h

theorem readsBack_ok {w : Word} {i : Instr} (hw : encode i = w) (hwf : i.wf = true) : ReadsBack w (.ok i) := by
  intro j h
  obtain rfl : i = j := Except.ok.inj h
  exact ⟨hw, hwf⟩

theorem readsBack_ok_ite {w : Word} {p : Prop} [Decidable p] {i j : Instr} (hi : p → encode i = w ∧ i.wf = true)
    (hj : ¬ p → encode j = w ∧ j.wf = true) : ReadsBack w (.ok (if p then i else j)) := by
  split
  · next hp => exact readsBack_ok (hi hp).1 (hi hp).2
  · next hp => exact readsBack_ok (hj hp).1 (hj hp).2

theorem readsBack_sbz {n : Nat} {w : Word} {got want : BitVec n} {i : Instr}
    (h : got = want → encode i = w ∧ i.wf = true) : ReadsBack w (sbz got want i) := by
  unfold sbz
  split
  · next heq => exact readsBack_ok (h heq).1 (h heq).2
  · exact readsBack_error w _

theorem readsBack_nonEmpty {n : Nat} {w : Word} {list : BitVec n} {i : Instr} (hw : encode i = w)
    (hwf : list ≠ 0#n → i.wf = true) : ReadsBack w (nonEmpty list i) := by
  unfold nonEmpty
  split
  · exact readsBack_error w _
  · next hne => exact readsBack_ok hw (hwf hne)

/-! ## Data processing (R100)

The four tests (`TST` to `CMN`, where S is set) have Rd 0, MOV and MVN have Rn 0. -/

/-- The one MOV word with a reading of its own (R206). -/
theorem encode_nop_of_isNopMov {c : Cond} {sf : Bool} {rd : Reg} {amt : BitVec 5} {sh : ShiftKind} {rm : Reg}
    (h : isNopMov c sf rd amt sh rm = true) :
    encode .nop = dpWord c false 0b1101#4 sf 0#4 rd (shiftField amt sh rm) := by
  simp only [isNopMov, Bool.and_eq_true, Bool.not_eq_true', beq_iff_eq] at h
  obtain ⟨⟨⟨⟨⟨rfl, rfl⟩, rfl⟩, rfl⟩, rfl⟩, rfl⟩ := h
  rfl

section DataProcessing

variable {c : Cond} {sf : Bool} {op rn rd : BitVec 4} (h : op.extractLsb' 2 2 = 0b10#2 → sf = true)
include h

theorem readsBack_decodeDpImm (rot : BitVec 4) (imm : BitVec 8) :
    ReadsBack (dpWord c true op sf rn rd (rot ++ imm)) (decodeDpImm c sf op rn rd rot imm) := by
  unfold decodeDpImm
  split
  case h_9 | h_10 | h_11 | h_12 => exact readsBack_sbz fun hrd => by rw [hrd, h rfl]; exact ⟨rfl, rfl⟩
  case h_14 => exact readsBack_sbz fun hrn => by rw [hrn]; exact ⟨rfl, rfl⟩
  case h_16 =>
    obtain rfl : op = 0b1111#4 := by simp only [imp_false] at *; bv_omega
    exact readsBack_sbz fun hrn => by rw [hrn]; exact ⟨rfl, rfl⟩
  all_goals exact readsBack_ok rfl rfl

theorem readsBack_decodeDpShift (amt : BitVec 5) (sh : ShiftKind) (rm : Reg) :
    ReadsBack (dpWord c false op sf rn rd (shiftField amt sh rm)) (decodeDpShift c sf op rn rd amt sh rm) := by
  unfold decodeDpShift
  split
  case h_9 | h_10 | h_11 | h_12 => exact readsBack_sbz fun hrd => by rw [hrd, h rfl]; exact ⟨rfl, rfl⟩
  case h_14 =>
    refine readsBack_sbz fun hrn => ?_
    rw [hrn]
    split
    · next hnop => exact ⟨encode_nop_of_isNopMov hnop, rfl⟩
    · next hmov => exact ⟨rfl, by simp [Instr.wf, hmov]⟩
  case h_16 =>
    obtain rfl : op = 0b1111#4 := by simp only [imp_false] at *; bv_omega
    exact readsBack_sbz fun hrn => by rw [hrn]; exact ⟨rfl, rfl⟩
  all_goals exact readsBack_ok rfl rfl

theorem readsBack_decodeDpReg (rs : Reg) (sh : ShiftKind) (rm : Reg) :
    ReadsBack (dpWord c false op sf rn rd (regShiftField rs sh rm)) (decodeDpReg c sf op rn rd rs sh rm) := by
  unfold decodeDpReg
  split
  case h_9 | h_10 | h_11 | h_12 => exact readsBack_sbz fun hrd => by rw [hrd, h rfl]; exact ⟨rfl, rfl⟩
  case h_14 => exact readsBack_sbz fun hrn => by rw [hrn]; exact ⟨rfl, rfl⟩
  case h_16 =>
    obtain rfl : op = 0b1111#4 := by simp only [imp_false] at *; bv_omega
    exact readsBack_sbz fun hrn => by rw [hrn]; exact ⟨rfl, rfl⟩
  all_goals exact readsBack_ok rfl rfl

end DataProcessing

/-- The fields of a register operand put together again (R100). -/
theorem shiftField_fields_eq {o : BitVec 12} (h4 : o.getLsbD 4 = false) :
    shiftField (o.extractLsb' 7 5) (ShiftKind.ofBits (o.extractLsb' 5 2)) (o.extractLsb' 0 4) = o := by
  simp (disch := decide) only [shiftField, ShiftKind.bits_ofBits, zero_eq_field h4,
    BitVec.extractLsb'_append_extractLsb'_eq_extractLsb', BitVec.extractLsb'_eq_self]

theorem regShiftField_fields_eq {o : BitVec 12} (h7 : o.getLsbD 7 = false) (h4 : o.getLsbD 4 = true) :
    regShiftField (o.extractLsb' 8 4) (ShiftKind.ofBits (o.extractLsb' 5 2)) (o.extractLsb' 0 4) = o := by
  simp (disch := decide) only [regShiftField, ShiftKind.bits_ofBits, one_eq_field h4, zero_eq_field h7,
    BitVec.extractLsb'_append_extractLsb'_eq_extractLsb', BitVec.extractLsb'_eq_self]

theorem readsBack_decodeDpRegister {c : Cond} {op : BitVec 4} {sf : Bool} {rn rd : Reg} {o : BitVec 12}
    (h : op.extractLsb' 2 2 = 0b10#2 → sf = true) (h74 : (o.getLsbD 7 && o.getLsbD 4) = false) :
    ReadsBack (dpWord c false op sf rn rd o) (decodeDpRegister c (dpWord c false op sf rn rd o)) := by
  simp (disch := decide) only [decodeDpRegister, dpWord_fields, dpWord_bits]
  split
  · next h4 =>
    have hjoin := regShiftField_fields_eq (o := o) (by simpa only [h4, Bool.and_true] using h74) h4
    simpa only [hjoin] using
      readsBack_decodeDpReg h (o.extractLsb' 8 4) (.ofBits (o.extractLsb' 5 2)) (o.extractLsb' 0 4)
  · next h4 =>
    have hjoin := shiftField_fields_eq (o := o) (Bool.eq_false_iff.mpr h4)
    simpa only [hjoin] using
      readsBack_decodeDpShift h (o.extractLsb' 7 5) (.ofBits (o.extractLsb' 5 2)) (o.extractLsb' 0 4)

/-! ## Multiplies and swaps (R101, R104) -/

/-- The format of the multiplies is the one of the swaps, with S as the last bit of the operation. -/
theorem mulWord_eq_miscWord (c : Cond) (op : BitVec 7) (sf : Bool) (hi lo rs rm : Reg) :
    mulWord c op sf hi lo rs rm = miscWord c (op ++ BitVec.ofBool sf) hi lo rs 0b1001#4 rm := by
  refine BitVec.eq_of_getLsbD_eq fun k hk => ?_
  simp only [mulWord, miscWord, BitVec.getLsbD_append]
  grind

theorem encode_swp (c : Cond) (rn rd rm : Reg) :
    encode (.swp c rn rd rm) = mulWord c (0b000#3 ++ 0b1000#4) false rn rd 0#4 rm :=
  (mulWord_eq_miscWord c (0b000#3 ++ 0b1000#4) false rn rd 0#4 rm).symm

theorem encode_swpb (c : Cond) (rn rd rm : Reg) :
    encode (.swpb c rn rd rm) = mulWord c (0b000#3 ++ 0b1010#4) false rn rd 0#4 rm :=
  (mulWord_eq_miscWord c (0b000#3 ++ 0b1010#4) false rn rd 0#4 rm).symm

theorem readsBack_decodeMultiplySwap (c : Cond) (op : BitVec 4) (sf : Bool) (hi lo rs rm : Reg) :
    ReadsBack (mulWord c (0b000#3 ++ op) sf hi lo rs rm)
      (decodeMultiplySwap c (mulWord c (0b000#3 ++ op) sf hi lo rs rm)) := by
  simp only [decodeMultiplySwap, mulWord_fields, mulWord_bits, BitVec.extractLsb'_append_eq_right]
  split
  case h_1 => exact readsBack_sbz fun hlo => by rw [hlo]; exact ⟨rfl, rfl⟩
  case h_7 =>
    cases sf
    case true => exact readsBack_error _ _
    case false => exact readsBack_sbz fun hrs => by rw [hrs]; exact ⟨encode_swp .., rfl⟩
  case h_8 =>
    cases sf
    case true => exact readsBack_error _ _
    case false => exact readsBack_sbz fun hrs => by rw [hrs]; exact ⟨encode_swpb .., rfl⟩
  case h_9 => exact readsBack_error _ _
  all_goals exact readsBack_ok rfl rfl

/-! ## Halfwords and signed bytes (R106) -/

section Mode3

variable {c : Cond} {p u i wb : Bool} {lsh : BitVec 3} {rn rd hi lo : BitVec 4}

theorem readsBack_decodeMode3 {imm immPost reg regPost : Instr}
    (himm : encode imm = mode3Word c true u true wb lsh rn rd hi lo ∧ imm.wf = true)
    (himmPost : encode immPost = mode3Word c false u true false lsh rn rd hi lo ∧ immPost.wf = true)
    (hreg : encode reg = mode3Word c true u false wb lsh rn rd 0#4 lo ∧ reg.wf = true)
    (hregPost : encode regPost = mode3Word c false u false false lsh rn rd 0#4 lo ∧ regPost.wf = true) :
    ReadsBack (mode3Word c p u i wb lsh rn rd hi lo)
      (decodeMode3 (mode3Word c p u i wb lsh rn rd hi lo) imm immPost reg regPost) := by
  simp only [decodeMode3, mode3Word_fields, mode3Word_bits]
  cases p <;> cases i <;> cases wb
  case false.false.true | false.true.true => exact readsBack_error _ _
  case false.false.false => exact readsBack_sbz fun hhi => by rw [hhi]; exact hregPost
  case true.false.false | true.false.true => exact readsBack_sbz fun hhi => by rw [hhi]; exact hreg
  case false.true.false => exact readsBack_ok himmPost.1 himmPost.2
  case true.true.false | true.true.true => exact readsBack_ok himm.1 himm.2

theorem readsBack_decodeHalfword {l s h : Bool} (hlsh : lsh = BitVec.ofBool l ++ BitVec.ofBool s ++ BitVec.ofBool h) :
    ReadsBack (mode3Word c p u i wb lsh rn rd hi lo)
      (decodeHalfword c (mode3Word c p u i wb lsh rn rd hi lo)) := by
  simp only [decodeHalfword, mode3Word_fields, mode3Word_bits]
  subst hlsh
  cases l <;> cases s <;> cases h
  case false.false.false | false.true.false | false.true.true | true.false.false => exact readsBack_error _ _
  all_goals
    refine readsBack_decodeMode3 ⟨?_, rfl⟩ ⟨?_, rfl⟩ ⟨rfl, rfl⟩ ⟨rfl, rfl⟩ <;>
      simp only [encode, BitVec.extractLsb'_append_eq_left, BitVec.extractLsb'_append_eq_right] <;> rfl

end Mode3

/-! ## The miscellaneous space (R102, R103) -/

section Miscellaneous

variable (c : Cond) (op : BitVec 2) (a b d low rm : BitVec 4)

/-- Bits 21 and 22 choose in the miscellaneous space. -/
theorem miscSpace_op : (0b00010#5 ++ op ++ 0b0#1).extractLsb' 1 2 = op := by
  simp (disch := decide) only [extractLsb'_append_low, extractLsb'_append_high]
  exact BitVec.extractLsb'_eq_self

/-- Bits 7 and 4 of the 16-bit multiplies (R102). -/
theorem eq_mul16Field {low : BitVec 4} (h : (low.getLsbD 3 && !low.getLsbD 0) = true) :
    low = mul16Field (low.getLsbD 2) (low.getLsbD 1) := by
  revert low; decide

theorem readsBack_decodeMultiply16 {y x : Bool} (hlow : low = mul16Field y x) :
    ReadsBack (miscWord c (0b00010#5 ++ op ++ 0b0#1) a b d low rm)
      (decodeMultiply16 c (miscWord c (0b00010#5 ++ op ++ 0b0#1) a b d low rm)) := by
  have hy : low.getLsbD 2 = y := by subst hlow; cases x <;> cases y <;> rfl
  have hx : low.getLsbD 1 = x := by subst hlow; cases x <;> cases y <;> rfl
  simp only [decodeMultiply16, miscWord_fields, miscWord_bits, miscSpace_op, hx, hy]
  subst hlow
  split
  case h_2 =>
    split
    · next hx => exact readsBack_sbz fun hb => by rw [hb, hx]; exact ⟨rfl, rfl⟩
    · next hx =>
      rw [Bool.eq_false_of_not_eq_true hx]
      exact readsBack_ok rfl rfl
  case h_4 =>
    obtain rfl : op = 0b11#2 := by simp only [imp_false] at *; bv_omega
    exact readsBack_sbz fun hb => by rw [hb]; exact ⟨rfl, rfl⟩
  all_goals exact readsBack_ok rfl rfl

theorem append_eq_iff {n m : Nat} {x x' : BitVec n} {y y' : BitVec m} : x ++ y = x' ++ y' ↔ x = x' ∧ y = y' := by
  constructor
  · intro h
    have hlow := congrArg (BitVec.extractLsb' 0 m) h
    have hhigh := congrArg (BitVec.extractLsb' m n) h
    rw [BitVec.extractLsb'_append_eq_right, BitVec.extractLsb'_append_eq_right] at hlow
    rw [BitVec.extractLsb'_append_eq_left, BitVec.extractLsb'_append_eq_left] at hhigh
    exact ⟨hhigh, hlow⟩
  · rintro ⟨rfl, rfl⟩; rfl

/-- A should-be field of several nibbles is one field for each of them (R112). -/
theorem nibbles_eq_F0 : b ++ d = 0xF0#8 ↔ b = 0xF#4 ∧ d = 0#4 := by
  rw [← append_eq_iff]
  rfl

theorem nibbles_eq_FF : a ++ d = 0xFF#8 ↔ a = 0xF#4 ∧ d = 0xF#4 := by
  rw [← append_eq_iff]
  rfl

theorem nibbles_eq_FFF : a ++ b ++ d = 0xFFF#12 ↔ (a = 0xF#4 ∧ b = 0xF#4) ∧ d = 0xF#4 := by
  simp only [← append_eq_iff]
  rfl

theorem nibbles_eq_F000 : a ++ (d ++ low ++ rm) = 0xF000#16 ↔ a = 0xF#4 ∧ (d = 0#4 ∧ low = 0#4) ∧ rm = 0#4 := by
  simp only [← append_eq_iff]
  rfl

theorem encode_bkpt_nibbles :
    encode (.bkpt (a ++ b ++ d ++ rm)) = miscWord .al 0b00010010#8 a b d 0b0111#4 rm := by
  simp (disch := decide) only [encode, extractLsb'_append_low, extractLsb'_append_high]
  simp

theorem readsBack_decodeMiscellaneous :
    ReadsBack (miscWord c (0b00010#5 ++ op ++ 0b0#1) a b d low rm)
      (decodeMiscellaneous c (miscWord c (0b00010#5 ++ op ++ 0b0#1) a b d low rm)) := by
  have hlast (h0 : op ≠ 0b00#2) (h1 : op ≠ 0b01#2) (h2 : op ≠ 0b10#2) : op = 0b11#2 := by bv_omega
  simp only [decodeMiscellaneous, miscWord_fields, miscWord_bits, miscWord_nibbles, miscSpace_op]
  split
  case h_1 =>
    split
    case h_1 | h_2 =>
      refine readsBack_sbz fun h => ?_
      obtain ⟨rfl, ⟨rfl, -⟩, rfl⟩ := (nibbles_eq_F000 ..).mp h
      exact ⟨rfl, rfl⟩
    case h_3 =>
      refine readsBack_sbz fun h => ?_
      obtain ⟨rfl, rfl⟩ := (nibbles_eq_F0 ..).mp h
      exact ⟨rfl, rfl⟩
    case h_4 h0 h2 h1 =>
      obtain rfl := hlast h0 h1 h2
      refine readsBack_sbz fun h => ?_
      obtain ⟨rfl, rfl⟩ := (nibbles_eq_F0 ..).mp h
      exact ⟨rfl, rfl⟩
  case h_2 =>
    split
    case h_1 =>
      refine readsBack_sbz fun h => ?_
      obtain ⟨⟨rfl, rfl⟩, rfl⟩ := (nibbles_eq_FFF ..).mp h
      exact ⟨rfl, rfl⟩
    case h_2 =>
      refine readsBack_sbz fun h => ?_
      obtain ⟨rfl, rfl⟩ := (nibbles_eq_FF ..).mp h
      exact ⟨rfl, rfl⟩
    case h_3 => exact readsBack_error _ _
  case h_3 =>
    split
    · refine readsBack_sbz fun h => ?_
      obtain ⟨⟨rfl, rfl⟩, rfl⟩ := (nibbles_eq_FFF ..).mp h
      exact ⟨rfl, rfl⟩
    · exact readsBack_error _ _
  case h_4 =>
    split
    case h_4 h0 h1 h2 =>
      obtain rfl := hlast h0 h1 h2
      exact readsBack_sbz fun hd => by rw [hd]; exact ⟨rfl, rfl⟩
    all_goals exact readsBack_sbz fun hd => by rw [hd]; exact ⟨rfl, rfl⟩
  case h_5 =>
    split
    · split
      · next hc =>
        subst hc
        exact readsBack_ok (encode_bkpt_nibbles ..) rfl
      · exact readsBack_error _ _
    · exact readsBack_error _ _
  case h_6 =>
    split
    · next hbits =>
      exact readsBack_decodeMultiply16 c op a b d low rm (eq_mul16Field hbits)
    · exact readsBack_error _ _

end Miscellaneous

/-! ## Classes 000 and 001 (R111) -/

theorem exists_op_of_miscSpace {op : BitVec 8} (h25 : op.extractLsb' 5 3 = 0b000#3)
    (h23 : op.extractLsb' 3 2 = 0b10#2) (h20 : op.getLsbD 0 = false) : ∃ x : BitVec 2, op = 0b00010#5 ++ x ++ 0b0#1 :=
  ⟨op.extractLsb' 1 2, by revert op; decide⟩

theorem exists_op_of_msrImm {op : BitVec 8} (h25 : op.extractLsb' 5 3 = 0b001#3)
    (h23 : op.extractLsb' 3 2 = 0b10#2) (h21 : op.getLsbD 1 = true) (h20 : op.getLsbD 0 = false) :
    ∃ r : Bool, op = 0b00110#5 ++ BitVec.ofBool r ++ 0b10#2 :=
  ⟨op.getLsbD 2, by revert op; decide⟩

theorem encode_msrCpsrImm_nibbles (c : Cond) (fields rot hi lo : BitVec 4) :
    encode (.msrCpsrImm c fields rot (hi ++ lo)) = miscWord c 0b00110010#8 fields 0xF#4 rot hi lo := by
  simp only [encode, BitVec.extractLsb'_append_eq_left, BitVec.extractLsb'_append_eq_right]

theorem encode_msrSpsrImm_nibbles (c : Cond) (fields rot hi lo : BitVec 4) :
    encode (.msrSpsrImm c fields rot (hi ++ lo)) = miscWord c 0b00110110#8 fields 0xF#4 rot hi lo := by
  simp only [encode, BitVec.extractLsb'_append_eq_left, BitVec.extractLsb'_append_eq_right]

/-- The operation of MRC and MCR: bits 23:21, and the bit that tells the two apart (R109). -/
theorem exists_append_ofBool (op1 : BitVec 4) :
    ∃ (x : BitVec 3) (l : Bool), op1.extractLsb' 1 3 = x ∧ op1.getLsbD 0 = l ∧ op1 = x ++ BitVec.ofBool l :=
  ⟨_, _, rfl, rfl, by revert op1; decide⟩

section Classes

variable {w : Word} {c : Cond} (h28 : w.extractLsb' 28 4 = c.bits)
include h28

theorem readsBack_decode000 (h25 : w.extractLsb' 25 3 = 0b000#3) : ReadsBack w (decode000 c w) := by
  unfold decode000
  split
  next hlow =>
    obtain ⟨op, sf, hi, lo, rs, rm, rfl⟩ := exists_mulWord h28 h25 hlow
    exact readsBack_decodeMultiplySwap c op sf hi lo rs rm
  split
  next h74 =>
    obtain ⟨h7, h4⟩ := (Bool.and_eq_true ..).mp h74
    obtain ⟨p, u, i, wb, l, s, h, rn, rd, hi, lo, rfl⟩ := exists_mode3Word h28 h25 h7 h4
    exact readsBack_decodeHalfword rfl
  next h74 =>
  split
  next hmisc =>
    obtain ⟨op, a, b, d, low, rm, rfl⟩ := exists_miscWord h28
    simp only [miscWord_class, miscWord_fields, miscWord_bits, Bool.and_eq_true, decide_eq_true_eq,
      Bool.not_eq_true'] at h25 hmisc
    obtain ⟨h23, h20⟩ := hmisc
    obtain ⟨x, rfl⟩ := exists_op_of_miscSpace h25 h23 h20
    exact readsBack_decodeMiscellaneous c x a b d low rm
  next hmisc =>
    obtain ⟨op, sf, rn, rd, o, rfl⟩ := exists_dpWord (i := false) h28 h25
    simp (disch := decide) only [dpWord_fields, dpWord_bits] at h74 hmisc
    exact readsBack_decodeDpRegister (by simpa using hmisc) (Bool.eq_false_of_not_eq_true h74)

theorem readsBack_decode001 (h25 : w.extractLsb' 25 3 = 0b001#3) : ReadsBack w (decode001 c w) := by
  unfold decode001
  simp only
  split
  next hmsr =>
    rw [Bool.and_eq_true, decide_eq_true_eq, Bool.not_eq_true'] at hmsr
    obtain ⟨h23, h20⟩ := hmsr
    split
    next h21 =>
      obtain ⟨op, a, b, d, low, rm, rfl⟩ := exists_miscWord h28
      simp only [miscWord_class, miscWord_fields, miscWord_bits, miscWord_nibbles] at h25 h23 h21 h20 ⊢
      obtain ⟨r, rfl⟩ := exists_op_of_msrImm h25 h23 h21 h20
      have hr : (0b00110#5 ++ BitVec.ofBool r ++ 0b10#2).getLsbD 2 = r := by cases r <;> rfl
      refine readsBack_sbz fun hb => ?_
      rw [hb, hr]
      cases r
      case false => exact ⟨encode_msrCpsrImm_nibbles .., rfl⟩
      case true => exact ⟨encode_msrSpsrImm_nibbles .., rfl⟩
    next h21 =>
      exact readsBack_ok (encode_undefImm_fields h28 h25 h23 (Bool.eq_false_of_not_eq_true h21) h20) rfl
  next hmsr =>
    obtain ⟨op, sf, rn, rd, o, rfl⟩ := exists_dpWord (i := true) h28 h25
    have hjoin : o.extractLsb' 8 4 ++ o.extractLsb' 0 8 = o := by
      simp (disch := decide) only [BitVec.extractLsb'_append_extractLsb'_eq_extractLsb', BitVec.extractLsb'_eq_self]
    simp (disch := decide) only [dpWord_fields, dpWord_bits] at hmsr ⊢
    simpa only [hjoin] using
      readsBack_decodeDpImm (by simpa using hmsr) (o.extractLsb' 8 4) (o.extractLsb' 0 8)

theorem readsBack_decode010 (h25 : w.extractLsb' 25 3 = 0b010#3) : ReadsBack w (decode010 c w) := by
  obtain ⟨p, u, b, wb, l, rn, rd, am, rfl⟩ := exists_mode2Word (i := false) h28 h25
  simp (disch := decide) only [decode010, mode2Word_fields, mode2Word_bits]
  rw [BitVec.extractLsb'_eq_self]
  cases p <;> cases wb <;> cases b <;> cases l
  case false.false.false.true | true.false.false.true | true.true.false.true =>
    exact readsBack_ok_ite (fun hrd => by rw [hrd]; exact ⟨rfl, rfl⟩) fun hrd => ⟨rfl, bne_iff_ne.mpr hrd⟩
  all_goals exact readsBack_ok rfl rfl

theorem readsBack_decode011 (h25 : w.extractLsb' 25 3 = 0b011#3) : ReadsBack w (decode011 c w) := by
  cases h4 : w.getLsbD 4
  case true =>
    simp only [decode011, h4]
    exact readsBack_ok (encode_undefReg_fields h28 h25 h4) rfl
  case false =>
    obtain ⟨p, u, b, wb, l, rn, rd, am, rfl⟩ := exists_mode2Word (i := true) h28 h25
    simp (disch := decide) only [mode2Word_bits] at h4
    have hjoin := shiftField_fields_eq h4
    simp (disch := decide) only [decode011, mode2Word_fields, mode2Word_bits, h4, Bool.false_eq_true, if_false]
    revert hjoin
    generalize am.extractLsb' 7 5 = amt, ShiftKind.ofBits (am.extractLsb' 5 2) = sh, am.extractLsb' 0 4 = rm
    rintro rfl
    cases p <;> cases wb <;> cases b <;> cases l
    case false.false.false.true | true.false.false.true | true.true.false.true =>
      exact readsBack_ok_ite (fun hrd => by rw [hrd]; exact ⟨rfl, rfl⟩) fun hrd => ⟨rfl, bne_iff_ne.mpr hrd⟩
    all_goals exact readsBack_ok rfl rfl

theorem readsBack_decode100 (h25 : w.extractLsb' 25 3 = 0b100#3) : ReadsBack w (decode100 c w) := by
  obtain ⟨am, sf, wb, l, rn, list, rfl⟩ := exists_blockWord h28 h25
  have hjoin : BitVec.ofBool (list.getLsbD 15) ++ list.extractLsb' 0 15 = list := by
    simp (disch := decide) only [ofBool_getLsbD, BitVec.extractLsb'_append_extractLsb'_eq_extractLsb',
      BitVec.extractLsb'_eq_self]
  simp (disch := decide) only [decode100, blockWord_fields, blockWord_bits, BlockMode.ofBits_bits]
  rw [BitVec.extractLsb'_eq_self]
  revert hjoin
  generalize list.getLsbD 15 = pc, list.extractLsb' 0 15 = low
  intro hjoin
  cases l
  case false =>
    have hwf : list ≠ 0#16 → (list != 0#16) = true := bne_iff_ne.mpr
    cases sf
    case false => exact readsBack_nonEmpty rfl hwf
    case true =>
      cases wb
      case false => exact readsBack_nonEmpty rfl hwf
      case true => exact readsBack_error _ _
  case true =>
    have hwf : low ≠ 0#15 → (low != 0#15) = true := bne_iff_ne.mpr
    subst hjoin
    cases pc <;> cases sf
    case true.false | true.true => exact readsBack_ok rfl rfl
    case false.false => exact readsBack_nonEmpty rfl hwf
    case false.true =>
      cases wb
      case false => exact readsBack_nonEmpty rfl hwf
      case true => exact readsBack_error _ _

theorem readsBack_decode101 (h25 : w.extractLsb' 25 3 = 0b101#3) : ReadsBack w (decode101 c w) := by
  obtain ⟨b, imm, rfl⟩ := exists_branchWord h28 h25
  simp only [decode101, branchWord_fields, branchWord_bits]
  cases b <;> exact readsBack_ok rfl rfl

theorem readsBack_decode110 (h25 : w.extractLsb' 25 3 = 0b110#3) : ReadsBack w (decode110 c w) := by
  obtain ⟨p, u, n, wb, l, rn, crd, cp, off, rfl⟩ := exists_cpMemWord h28 h25
  simp only [decode110, cpMemWord_fields, cpMemWord_bits]
  cases p <;> cases wb <;> cases u <;> cases l
  case false.false.false.false | false.false.false.true => exact readsBack_error _ _
  all_goals exact readsBack_ok rfl rfl

theorem readsBack_decode111 (h25 : w.extractLsb' 25 3 = 0b111#3) : ReadsBack w (decode111 c w) := by
  cases h24 : w.getLsbD 24
  case true =>
    simp only [decode111, h24]
    exact readsBack_ok (encode_swi_fields h28 h25 h24) rfl
  case false =>
    obtain ⟨op1, crn, rd, cp, op2, b, crm, rfl⟩ := exists_cpOpWord h28 h25 h24
    simp only [decode111, cpOpWord_fields, cpOpWord_bits]
    cases b
    case false => exact readsBack_ok rfl rfl
    case true =>
      obtain ⟨x, l, hx, hl, rfl⟩ := exists_append_ofBool op1
      rw [hx, hl]
      cases l <;> exact readsBack_ok rfl rfl

end Classes

theorem readsBack_decodeUnconditional {w : Word} (h28 : w.extractLsb' 28 4 = 0xF#4) :
    ReadsBack w (decodeUnconditional w) := by
  unfold decodeUnconditional
  split
  case h_1 h25 =>
    obtain ⟨b, imm, rfl⟩ := exists_branchWord h28 h25
    simp only [branchWord_fields, branchWord_bits]
    exact readsBack_ok rfl rfl
  case h_2 h25 =>
    obtain ⟨p, u, n, wb, l, rn, crd, cp, off, rfl⟩ := exists_cpMemWord h28 h25
    simp only [cpMemWord_fields, cpMemWord_bits]
    cases p <;> cases wb <;> cases u <;> cases l
    case false.false.false.false | false.false.false.true => exact readsBack_error _ _
    all_goals exact readsBack_ok rfl rfl
  case h_3 h25 =>
    simp only
    split
    · exact readsBack_error _ _
    · next h24 =>
      obtain ⟨op1, crn, rd, cp, op2, b, crm, rfl⟩ := exists_cpOpWord h28 h25 (Bool.eq_false_of_not_eq_true h24)
      simp only [cpOpWord_fields, cpOpWord_bits]
      cases b
      case false => exact readsBack_ok rfl rfl
      case true =>
        obtain ⟨x, l, hx, hl, rfl⟩ := exists_append_ofBool op1
        rw [hx, hl]
        cases l <;> exact readsBack_ok rfl rfl
  case h_4 => exact readsBack_error _ _

/-- Settles O8: the decoder's case split over condition and class, each region reading back the words of its format. -/
theorem encodeOfDecode : Obligations.EncodeOfDecode := by
  intro w i h
  refine (?_ : ReadsBack w (decode w)) i h
  unfold decode
  split
  case h_1 c hc =>
    have h28 := Cond.eq_bits_of_ofBits hc
    unfold decodeConditional
    split
    case h_1 h25 => exact readsBack_decode000 h28 h25
    case h_2 h25 => exact readsBack_decode001 h28 h25
    case h_3 h25 => exact readsBack_decode010 h28 h25
    case h_4 h25 => exact readsBack_decode011 h28 h25
    case h_5 h25 => exact readsBack_decode100 h28 h25
    case h_6 h25 => exact readsBack_decode101 h28 h25
    case h_7 h25 => exact readsBack_decode110 h28 h25
    case h_8 h25 => exact readsBack_decode111 h28 (by simp only [imp_false] at *; bv_omega)
  case h_2 hc => exact readsBack_decodeUnconditional (Cond.eq_of_ofBits_none hc)

end Sys2Proof

/-!
PROOFS. Decoding the encoding of a well-formed instruction gives it back: the branch of the decoder that each format
reaches, then the fields read back, constructor by constructor.
-/

namespace Sys2Proof

open Laws.EncodeCond (dpWord_top mulWord_top miscWord_top mode2Word_top mode3Word_top blockWord_top branchWord_top
  cpMemWord_top cpOpWord_top)

/-! ## The class of a word -/

section ClassOf

variable {w : Word} {c : Cond}

theorem decode_conditional (h28 : w.extractLsb' 28 4 = c.bits) : decode w = decodeConditional c w := by
  rw [decode, h28, Cond.ofBits_bits]

theorem decode_unconditional (h28 : w.extractLsb' 28 4 = 0xF#4) : decode w = decodeUnconditional w := by
  rw [decode, h28]
  rfl

theorem decode_class000 (h28 : w.extractLsb' 28 4 = c.bits) (h25 : w.extractLsb' 25 3 = 0b000#3) :
    decode w = decode000 c w := by
  rw [decode_conditional h28, decodeConditional, h25]
  rfl

theorem decode_class001 (h28 : w.extractLsb' 28 4 = c.bits) (h25 : w.extractLsb' 25 3 = 0b001#3) :
    decode w = decode001 c w := by
  rw [decode_conditional h28, decodeConditional, h25]
  rfl

theorem decode_class010 (h28 : w.extractLsb' 28 4 = c.bits) (h25 : w.extractLsb' 25 3 = 0b010#3) :
    decode w = decode010 c w := by
  rw [decode_conditional h28, decodeConditional, h25]
  rfl

theorem decode_class011 (h28 : w.extractLsb' 28 4 = c.bits) (h25 : w.extractLsb' 25 3 = 0b011#3) :
    decode w = decode011 c w := by
  rw [decode_conditional h28, decodeConditional, h25]
  rfl

theorem decode_class100 (h28 : w.extractLsb' 28 4 = c.bits) (h25 : w.extractLsb' 25 3 = 0b100#3) :
    decode w = decode100 c w := by
  rw [decode_conditional h28, decodeConditional, h25]
  rfl

theorem decode_class101 (h28 : w.extractLsb' 28 4 = c.bits) (h25 : w.extractLsb' 25 3 = 0b101#3) :
    decode w = decode101 c w := by
  rw [decode_conditional h28, decodeConditional, h25]
  rfl

theorem decode_class110 (h28 : w.extractLsb' 28 4 = c.bits) (h25 : w.extractLsb' 25 3 = 0b110#3) :
    decode w = decode110 c w := by
  rw [decode_conditional h28, decodeConditional, h25]
  rfl

theorem decode_class111 (h28 : w.extractLsb' 28 4 = c.bits) (h25 : w.extractLsb' 25 3 = 0b111#3) :
    decode w = decode111 c w := by
  rw [decode_conditional h28, decodeConditional, h25]
  rfl

end ClassOf

/-! ## Decoding a word of each format -/

theorem decode_dpWord_imm {c : Cond} {sf : Bool} {op rn rd : BitVec 4} (h : op.extractLsb' 2 2 = 0b10#2 → sf = true)
    (rot : BitVec 4) (imm : BitVec 8) :
    decode (dpWord c true op sf rn rd (rot ++ imm)) = decodeDpImm c sf op rn rd rot imm := by
  have hmisc : ¬((decide (op.extractLsb' 2 2 = 0b10#2) && !sf) = true) := by simpa using h
  rw [decode_class001 (dpWord_top ..) (dpWord_class ..)]
  simp (disch := decide) only [decode001, dpWord_fields, dpWord_bits, hmisc, if_false, Bool.false_eq_true]
  rw [BitVec.extractLsb'_append_eq_left, BitVec.extractLsb'_append_eq_right]

section RegisterOperand

variable {c : Cond} {sf : Bool} {op rn rd : BitVec 4} (h : op.extractLsb' 2 2 = 0b10#2 → sf = true)
include h

theorem decode_dpWord_register {o : BitVec 12} (h74 : (o.getLsbD 7 && o.getLsbD 4) = false) :
    decode (dpWord c false op sf rn rd o) = decodeDpRegister c (dpWord c false op sf rn rd o) := by
  have hmisc : ¬((decide (op.extractLsb' 2 2 = 0b10#2) && !sf) = true) := by simpa using h
  have hlow : o.extractLsb' 4 4 ≠ 0b1001#4 := by
    intro h9
    have h7 : o.getLsbD 7 = (o.extractLsb' 4 4).getLsbD 3 := by simp
    have h4 : o.getLsbD 4 = (o.extractLsb' 4 4).getLsbD 0 := by simp
    rw [h7, h4, h9] at h74
    cases h74
  rw [decode_class000 (dpWord_top ..) (dpWord_class ..)]
  simp (disch := decide) only [decode000, dpWord_fields, dpWord_bits, hmisc, h74, hlow, if_false,
    Bool.false_eq_true]

theorem decode_dpWord_shift (amt : BitVec 5) (sh : ShiftKind) (rm : Reg) :
    decode (dpWord c false op sf rn rd (shiftField amt sh rm)) = decodeDpShift c sf op rn rd amt sh rm := by
  rw [decode_dpWord_register h (by simp only [shiftField_fields, Bool.and_false])]
  simp (disch := decide) only [decodeDpRegister, dpWord_fields, dpWord_bits, shiftField_fields, Bool.false_eq_true,
    if_false, ShiftKind.ofBits_bits]

theorem decode_dpWord_reg (rs : Reg) (sh : ShiftKind) (rm : Reg) :
    decode (dpWord c false op sf rn rd (regShiftField rs sh rm)) = decodeDpReg c sf op rn rd rs sh rm := by
  rw [decode_dpWord_register h (by simp only [regShiftField_fields, Bool.false_and])]
  simp (disch := decide) only [decodeDpRegister, dpWord_fields, dpWord_bits, regShiftField_fields, if_true,
    ShiftKind.ofBits_bits]

end RegisterOperand

/-! ### Multiplies, swaps, halfwords and the miscellaneous space -/

theorem decode_mulWord {op : BitVec 7} (h : op.extractLsb' 4 3 = 0b000#3) (c : Cond) (sf : Bool) (hi lo rs rm : Reg) :
    decode (mulWord c op sf hi lo rs rm) = decodeMultiplySwap c (mulWord c op sf hi lo rs rm) := by
  rw [decode_class000 (mulWord_top ..) ((mulWord_class ..).trans h)]
  simp only [decode000, mulWord_fields, if_true]

theorem decode_mode3Word {lsh : BitVec 3} (h : (lsh.getLsbD 1 || lsh.getLsbD 0) = true) (c : Cond) (p u i w : Bool)
    (rn rd hi lo : BitVec 4) :
    decode (mode3Word c p u i w lsh rn rd hi lo) = decodeHalfword c (mode3Word c p u i w lsh rn rd hi lo) := by
  have hclass := decode_class000 (mode3Word_top c p u i w lsh rn rd hi lo) (mode3Word_class ..)
  obtain ⟨-, -, -, -, -, h7, h6, h5, h4⟩ := mode3Word_bits c p u i w lsh rn rd hi lo
  generalize mode3Word c p u i w lsh rn rd hi lo = word at *
  have hlow : word.extractLsb' 4 4 ≠ 0b1001#4 := by
    intro h9
    have h6' : word.getLsbD 6 = (word.extractLsb' 4 4).getLsbD 2 := by simp
    have h5' : word.getLsbD 5 = (word.extractLsb' 4 4).getLsbD 1 := by simp
    rw [← h6, ← h5, h6', h5', h9] at h
    cases h
  rw [hclass, decode000, if_neg hlow, h7, h4]
  rfl

theorem decode_miscSpace {op : BitVec 8} {low : BitVec 4} (h25 : op.extractLsb' 5 3 = 0b000#3)
    (h23 : op.extractLsb' 3 2 = 0b10#2) (h20 : op.getLsbD 0 = false) (hlow : (low.getLsbD 3 && low.getLsbD 0) = false)
    (c : Cond) (a b d : BitVec 4) (rm : Reg) :
    decode (miscWord c op a b d low rm) = decodeMiscellaneous c (miscWord c op a b d low rm) := by
  have h9 : low ≠ 0b1001#4 := by
    rintro rfl
    cases hlow
  rw [decode_class000 (miscWord_top ..) ((miscWord_class ..).trans h25)]
  simp only [decode000, miscWord_fields, miscWord_bits, h9, hlow, h23, h20, if_false, Bool.false_eq_true, decide_true,
    Bool.not_false, Bool.and_self, if_true]

theorem decode_msrImm {op : BitVec 8} (h25 : op.extractLsb' 5 3 = 0b001#3) (h23 : op.extractLsb' 3 2 = 0b10#2)
    (h20 : op.getLsbD 0 = false) (h21 : op.getLsbD 1 = true) (c : Cond) (a d low rm : BitVec 4) :
    decode (miscWord c op a 0xF#4 d low rm)
      = .ok (if op.getLsbD 2 then .msrSpsrImm c a d (low ++ rm) else .msrCpsrImm c a d (low ++ rm)) := by
  rw [decode_class001 (miscWord_top ..) ((miscWord_class ..).trans h25)]
  simp only [decode001, miscWord_fields, miscWord_bits, miscWord_nibbles, h23, h20, h21, decide_true, Bool.not_false,
    Bool.and_self, if_true, sbz_self]

/-! ### The transfers -/

theorem decode_mode2Word_imm (c : Cond) (p u b w l : Bool) (rn rd : Reg) (am : BitVec 12) :
    decode (mode2Word c false p u b w l rn rd am) = decode010 c (mode2Word c false p u b w l rn rd am) :=
  decode_class010 (mode2Word_top ..) (mode2Word_class ..)

theorem decode_mode2Word_reg (c : Cond) (p u b w l : Bool) (rn rd : Reg) (am : BitVec 12) :
    decode (mode2Word c true p u b w l rn rd am) = decode011 c (mode2Word c true p u b w l rn rd am) :=
  decode_class011 (mode2Word_top ..) (mode2Word_class ..)

theorem decode_blockWord (c : Cond) (am : BlockMode) (sf w l : Bool) (rn : Reg) (list : BitVec 16) :
    decode (blockWord c am sf w l rn list) = decode100 c (blockWord c am sf w l rn list) :=
  decode_class100 (blockWord_top ..) (blockWord_class ..)

/-! ### SWI and the undefined patterns (R110, R113) -/

theorem encode_swi_bits (c : Cond) (imm : BitVec 24) :
    (encode (.swi c imm)).extractLsb' 25 3 = 0b111#3 ∧ (encode (.swi c imm)).getLsbD 24 = true
      ∧ (encode (.swi c imm)).extractLsb' 0 24 = imm := by
  and_intros
  all_goals simp (disch := decide) only [encode, extractLsb'_append_low, extractLsb'_append_high, getLsbD_append_low,
    getLsbD_append_high]
  all_goals simp

theorem decode_swi (c : Cond) (imm : BitVec 24) : decode (encode (.swi c imm)) = .ok (.swi c imm) := by
  obtain ⟨h25, h24, himm⟩ := encode_swi_bits c imm
  rw [decode_class111 (Laws.EncodeCond.swi c imm) h25, decode111, himm, h24]
  rfl

theorem encode_undefReg_bits (c : Cond) (hi : BitVec 20) (lo : BitVec 4) :
    (encode (.undefReg c hi lo)).extractLsb' 25 3 = 0b011#3 ∧ (encode (.undefReg c hi lo)).getLsbD 4 = true
      ∧ (encode (.undefReg c hi lo)).extractLsb' 5 20 = hi ∧ (encode (.undefReg c hi lo)).extractLsb' 0 4 = lo := by
  and_intros
  all_goals simp (disch := decide) only [encode, extractLsb'_append_low, extractLsb'_append_high, getLsbD_append_low,
    getLsbD_append_high]
  all_goals simp

theorem decode_undefReg (c : Cond) (hi : BitVec 20) (lo : BitVec 4) :
    decode (encode (.undefReg c hi lo)) = .ok (.undefReg c hi lo) := by
  obtain ⟨h25, h4, hhi, hlo⟩ := encode_undefReg_bits c hi lo
  rw [decode_class011 (Laws.EncodeCond.undefReg c hi lo) h25, decode011, hhi, hlo, h4]
  rfl

theorem encode_undefImm_bits (c : Cond) (b22 : Bool) (lo : BitVec 20) :
    (encode (.undefImm c b22 lo)).extractLsb' 25 3 = 0b001#3 ∧ (encode (.undefImm c b22 lo)).extractLsb' 23 2 = 0b10#2
      ∧ (encode (.undefImm c b22 lo)).getLsbD 22 = b22 ∧ (encode (.undefImm c b22 lo)).getLsbD 21 = false
      ∧ (encode (.undefImm c b22 lo)).getLsbD 20 = false ∧ (encode (.undefImm c b22 lo)).extractLsb' 0 20 = lo := by
  and_intros
  all_goals simp (disch := decide) only [encode, extractLsb'_append_low, extractLsb'_append_high, getLsbD_append_low,
    getLsbD_append_high]
  all_goals simp

theorem decode_undefImm (c : Cond) (b22 : Bool) (lo : BitVec 20) :
    decode (encode (.undefImm c b22 lo)) = .ok (.undefImm c b22 lo) := by
  obtain ⟨h25, h23, h22, h21, h20, hlo⟩ := encode_undefImm_bits c b22 lo
  rw [decode_class001 (Laws.EncodeCond.undefImm c b22 lo) h25, decode001, hlo, h23, h22, h21, h20]
  rfl

/-! ## Decoding the encoding of an instruction -/

theorem exists_nibbles (x : BitVec 8) : ∃ hi lo : BitVec 4, x = hi ++ lo :=
  ⟨x.extractLsb' 4 4, x.extractLsb' 0 4, (BitVec.extractLsb'_append_extractLsb' (w := 4) (len := 4) (x := x)).symm⟩

theorem exists_four_nibbles (x : BitVec 16) : ∃ a b d e : BitVec 4, x = a ++ b ++ d ++ e := by
  refine ⟨x.extractLsb' 12 4, x.extractLsb' 8 4, x.extractLsb' 4 4, x.extractLsb' 0 4, ?_⟩
  simp (disch := decide) only [BitVec.extractLsb'_append_extractLsb'_eq_extractLsb', BitVec.extractLsb'_eq_self]

theorem mul16Field_bits (y x : Bool) : ((mul16Field y x).getLsbD 3 && (mul16Field y x).getLsbD 0) = false := by
  cases x <;> cases y <;> rfl

/-- Settles O7: the encoding of each instruction reaches the branch of its format, which reads its fields back. -/
theorem decodeOfEncode : Obligations.DecodeOfEncode := by
  intro i hwf
  cases i
  case tstImm | teqImm | cmpImm | cmnImm => exact decode_dpWord_imm (fun _ => rfl) ..
  case tstShift | teqShift | cmpShift | cmnShift => exact decode_dpWord_shift (fun _ => rfl) ..
  case tstReg | teqReg | cmpReg | cmnReg => exact decode_dpWord_reg (fun _ => rfl) ..
  case andImm | eorImm | subImm | rsbImm | addImm | adcImm | sbcImm | rscImm | orrImm | movImm | bicImm | mvnImm =>
    exact decode_dpWord_imm (fun h => absurd h (by decide)) ..
  case andShift | eorShift | subShift | rsbShift | addShift | adcShift | sbcShift | rscShift | orrShift | bicShift
      | mvnShift =>
    exact decode_dpWord_shift (fun h => absurd h (by decide)) ..
  case movShift c sf rd amt sh rm =>
    refine (decode_dpWord_shift (fun h => absurd h (by decide)) ..).trans ?_
    have hnop : isNopMov c sf rd amt sh rm = false := by simpa [Instr.wf] using hwf
    simp only [decodeDpShift, sbz_self, hnop, Bool.false_eq_true, if_false]
  case andReg | eorReg | subReg | rsbReg | addReg | adcReg | sbcReg | rscReg | orrReg | movReg | bicReg | mvnReg =>
    exact decode_dpWord_reg (fun h => absurd h (by decide)) ..
  case nop => exact decode_nop
  case mul | mla | umull | umlal | smull | smlal =>
    refine (decode_mulWord rfl ..).trans ?_
    simp only [decodeMultiplySwap, mulWord_fields, mulWord_bits]
    rfl
  case swp | swpb =>
    simp only [encode_swp, encode_swpb]
    refine (decode_mulWord rfl ..).trans ?_
    simp only [decodeMultiplySwap, mulWord_fields, mulWord_bits]
    rfl
  case ldrhReg | ldrhRegPost | ldrsbReg | ldrsbRegPost | ldrshReg | ldrshRegPost | strhReg | strhRegPost =>
    refine (decode_mode3Word rfl ..).trans ?_
    simp only [decodeHalfword, decodeMode3, mode3Word_fields, mode3Word_bits]
    rfl
  case ldrhImm imm | ldrhImmPost imm | ldrsbImm imm | ldrsbImmPost imm | ldrshImm imm | ldrshImmPost imm | strhImm imm
      | strhImmPost imm =>
    obtain ⟨hi, lo, rfl⟩ := exists_nibbles imm
    refine (decode_mode3Word rfl ..).trans ?_
    simp only [decodeHalfword, decodeMode3, mode3Word_fields, mode3Word_bits, BitVec.extractLsb'_append_eq_left,
      BitVec.extractLsb'_append_eq_right]
    rfl
  case mrsCpsr | mrsSpsr | msrCpsrReg | msrSpsrReg | bx | blxReg | clz | qadd | qsub | qdadd | qdsub =>
    refine (decode_miscSpace rfl rfl rfl rfl ..).trans ?_
    simp only [decodeMiscellaneous, miscWord_fields, miscWord_nibbles]
    rfl
  case bkpt imm =>
    obtain ⟨a, b, d, rm, rfl⟩ := exists_four_nibbles imm
    rw [encode_bkpt_nibbles, decode_miscSpace rfl rfl rfl rfl]
    simp only [decodeMiscellaneous, miscWord_fields, miscWord_nibbles]
    rfl
  case smlaxy x y _ _ _ _ | smlalxy x y _ _ _ _ | smulxy x y _ _ _ =>
    refine (decode_miscSpace rfl rfl rfl (mul16Field_bits y x) ..).trans ?_
    simp only [decodeMiscellaneous, decodeMultiply16, miscWord_fields, miscWord_bits]
    cases x <;> cases y <;> rfl
  case smlawy y _ _ _ _ =>
    refine (decode_miscSpace rfl rfl rfl (mul16Field_bits y false) ..).trans ?_
    simp only [decodeMiscellaneous, decodeMultiply16, miscWord_fields, miscWord_bits]
    cases y <;> rfl
  case smulwy y _ _ _ =>
    refine (decode_miscSpace rfl rfl rfl (mul16Field_bits y true) ..).trans ?_
    simp only [decodeMiscellaneous, decodeMultiply16, miscWord_fields, miscWord_bits]
    cases y <;> rfl
  case msrCpsrImm imm | msrSpsrImm imm =>
    obtain ⟨hi, lo, rfl⟩ := exists_nibbles imm
    simp only [encode_msrCpsrImm_nibbles, encode_msrSpsrImm_nibbles]
    exact decode_msrImm rfl rfl rfl rfl ..
  case ldrtImm | ldrbtImm | strtImm | strbtImm =>
    refine (decode_mode2Word_imm ..).trans ?_
    simp (disch := decide) only [decode010, mode2Word_fields, mode2Word_bits, BitVec.extractLsb'_eq_self]
    rfl
  case ldrbImm | strImm | strbImm =>
    refine (decode_mode2Word_imm ..).trans ?_
    simp (disch := decide) only [decode010, mode2Word_fields, mode2Word_bits, BitVec.extractLsb'_eq_self,
      IndexMode.ofBits_p_w]
  case ldrPcImm =>
    refine (decode_mode2Word_imm ..).trans ?_
    simp (disch := decide) only [decode010, mode2Word_fields, mode2Word_bits, BitVec.extractLsb'_eq_self,
      IndexMode.ofBits_p_w]
    rfl
  case ldrImm =>
    refine (decode_mode2Word_imm ..).trans ?_
    simp (disch := decide) only [decode010, mode2Word_fields, mode2Word_bits, BitVec.extractLsb'_eq_self,
      IndexMode.ofBits_p_w]
    exact congrArg Except.ok (if_neg (bne_iff_ne.mp hwf))
  case ldrtReg | ldrbtReg | strtReg | strbtReg =>
    refine (decode_mode2Word_reg ..).trans ?_
    simp (disch := decide) only [decode011, mode2Word_fields, mode2Word_bits, shiftField_fields, ShiftKind.ofBits_bits]
    rfl
  case ldrPcReg | ldrbReg | strReg | strbReg =>
    refine (decode_mode2Word_reg ..).trans ?_
    simp (disch := decide) only [decode011, mode2Word_fields, mode2Word_bits, shiftField_fields,
      ShiftKind.ofBits_bits, IndexMode.ofBits_p_w]
    rfl
  case ldrReg =>
    refine (decode_mode2Word_reg ..).trans ?_
    simp (disch := decide) only [decode011, mode2Word_fields, mode2Word_bits, shiftField_fields,
      ShiftKind.ofBits_bits, IndexMode.ofBits_p_w]
    exact congrArg Except.ok (if_neg (bne_iff_ne.mp hwf))
  case ldm | ldmUser | stm | stmUser =>
    refine (decode_blockWord ..).trans ?_
    simp (disch := decide) only [decode100, blockWord_fields, blockWord_bits, BlockMode.ofBits_bits,
      BitVec.extractLsb'_append_eq_right, BitVec.extractLsb'_eq_self, getLsbD_append_high]
    exact if_neg (bne_iff_ne.mp hwf)
  case ldmPc | ldmPcRet =>
    refine (decode_blockWord ..).trans ?_
    simp (disch := decide) only [decode100, blockWord_fields, blockWord_bits, BlockMode.ofBits_bits,
      BitVec.extractLsb'_append_eq_right, getLsbD_append_high]
    rfl
  case b | bl =>
    refine (decode_class101 (branchWord_top ..) (branchWord_class ..)).trans ?_
    simp only [decode101, branchWord_fields, branchWord_bits]
    rfl
  case ldcOff | ldcPost | ldcUnidx | stcOff | stcPost | stcUnidx =>
    refine (decode_class110 (cpMemWord_top ..) (cpMemWord_class ..)).trans ?_
    simp only [decode110, cpMemWord_fields, cpMemWord_bits]
    rfl
  case cdp | mrc | mcr =>
    refine (decode_class111 (cpOpWord_top ..) (cpOpWord_class ..)).trans ?_
    simp (disch := decide) only [decode111, cpOpWord_fields, cpOpWord_bits, BitVec.extractLsb'_append_eq_left,
      getLsbD_append_low]
    rfl
  case swi => exact decode_swi ..
  case undefReg => exact decode_undefReg ..
  case undefImm => exact decode_undefImm ..
  case blxLabel =>
    refine (decode_unconditional (branchWord_top ..)).trans ?_
    simp only [decodeUnconditional, branchWord_class, branchWord_fields, branchWord_bits]
  case ldc2Off | ldc2Post | ldc2Unidx | stc2Off | stc2Post | stc2Unidx =>
    refine (decode_unconditional (cpMemWord_top ..)).trans ?_
    simp only [decodeUnconditional, cpMemWord_class, cpMemWord_fields, cpMemWord_bits]
    rfl
  case cdp2 | mrc2 | mcr2 =>
    refine (decode_unconditional (cpOpWord_top ..)).trans ?_
    simp (disch := decide) only [decodeUnconditional, cpOpWord_class, cpOpWord_fields, cpOpWord_bits,
      BitVec.extractLsb'_append_eq_left, getLsbD_append_low]
    rfl

end Sys2Proof
